-- ==== Sys2Proof/Word.lean ====
section
/-!
DEFINITION. The plain value types of the engine: the host's 64-bit bus word, and the register
numbers (00_scope.md R8). The contents of word, Nat and modulus registers are plain integers
(00_scope.md R10, R11).
-/

namespace Sys2Proof

/-- One 64-bit register of the host's window, and one command word (20_memory.md R84, R86;
30_encoding.md R120). -/
abbrev BusWord := BitVec 64

/-- Number of one of the 16 Nat registers `n[0]` to `n[15]` (00_scope.md R8). -/
abbrev NReg := Fin 16

/-- Number of one of the 16 word registers `w[0]` to `w[15]` (00_scope.md R8). -/
abbrev WReg := Fin 16

/-- Number of one of the 4 modulus registers `m[0]` to `m[3]` (00_scope.md R8). -/
abbrev MReg := Fin 4

end Sys2Proof
end

