-- ==== Sys2Proof/Syntax.lean ====
section
/-!
DEFINITION. The 43 commands of SCE-CMD version 1 as syntax, one constructor per row of
spec/opcode_table.json (30_encoding.md R122, R128). The operands of a constructor are the fields its
format uses, in the order D, E, A, B, C, MK, immediate. `k`, `s`, `j` and `imm` are the unsigned
immediates of R123 to R126; `cap` is the signed immediate of R127.
-/

namespace Sys2Proof

/-- A command of the engine (30_encoding.md R128). -/
inductive Instr where
  -- register access (41_nat_arithmetic.md part 2)
  | nop
  | wmovi (d : WReg) (imm : Nat)
  | nsetw (d : NReg) (a : WReg)
  | ngetw (d : WReg) (a : NReg) (j : Nat)
  | nputw (d : NReg) (a : WReg) (j : Nat)
  | ncopy (d a : NReg)
  -- word commands (40_limb_primitives.md part 2)
  | cteq (d a b : WReg)
  | ctgt (d a b : WReg)
  | ctifelse (d a b c : WReg)
  | div1 (d e a b c : WReg)
  -- limb vectors (40_limb_primitives.md part 3)
  | addvv (d : NReg) (e : WReg) (a b : NReg) (k : Nat)
  | subvv (d : NReg) (e : WReg) (a b : NReg) (k : Nat)
  | shlvu (d : NReg) (e : WReg) (a : NReg) (k s : Nat)
  | shrvu (d : NReg) (e : WReg) (a : NReg) (k s : Nat)
  | addmulvvw (d : NReg) (e : WReg) (a : NReg) (b : WReg) (k : Nat)
  | mulsubvvw (d : NReg) (e : WReg) (a : NReg) (b : WReg) (k : Nat)
  | addvw (d : NReg) (e : WReg) (a : NReg) (b : WReg) (k : Nat)
  | subvw (d : NReg) (e : WReg) (a : NReg) (b : WReg) (k : Nat)
  -- conditional copy and swap (40_limb_primitives.md part 4)
  | ctcondcopy (d a : NReg) (c : WReg)
  | ctcondswap (d e : NReg) (c : WReg)
  -- Nat arithmetic (41_nat_arithmetic.md parts 3 and 4)
  | nresize (d a : NReg) (cap : Int)
  | nadd (d a b : NReg) (cap : Int)
  | nsub (d a b : NReg) (cap : Int)
  | nmul (d a b : NReg) (cap : Int)
  | nlsh (d a : NReg) (b : WReg) (cap : Int)
  | nrsh (d a : NReg) (b : WReg) (cap : Int)
  | ncmp (d e : WReg) (a b : NReg) (c : WReg)
  | neq (d : WReg) (a b : NReg)
  | neqzero (d : WReg) (a : NReg)
  -- modulus and reduction (42_modulus_reduction.md)
  | modset (a : NReg) (mk : MReg)
  | shiftaddin (d : NReg) (e a : WReg) (mk : MReg)
  | mod (d a : NReg) (mk : MReg)
  | div (d a : NReg) (mk : MReg) (cap : Int)
  -- modular add, subtract, negate, multiply (43_modular_ops.md)
  | modadd (d a b : NReg) (mk : MReg)
  | modsub (d a b : NReg) (mk : MReg)
  | modneg (d a : NReg) (mk : MReg)
  | modmul (d a b : NReg) (mk : MReg)
  -- Montgomery (44_montgomery.md)
  | montmul (d a b : NReg) (mk : MReg)
  | montrep (d a : NReg) (mk : MReg)
  -- exponentiation, inverse, coprimality, square root (45 to 47)
  | exp (d a b : NReg) (mk : MReg)
  | modinv (d a : NReg) (mk : MReg)
  | coprime (d : WReg) (a b : NReg)
  | modsqrt (d a : NReg) (mk : MReg)
deriving DecidableEq, Repr

end Sys2Proof
end

