-- ==== Sys2Proof/WellFormed.lean ====
section
/-!
DEFINITION. Which commands the 64-bit word can hold: the immediates must fit their fields
(30_encoding.md R123 to R127). Register numbers fit by their types. A well-formed command may still
end with an error of 60_exceptions.md R402: that is its meaning, not its form.
-/

namespace Sys2Proof

/-- An unsigned 16-bit immediate: K, S or J (30_encoding.md R124 to R126). -/
abbrev fits16 (x : Nat) : Bool := decide (x < 2 ^ 16)

/-- The 32-bit immediate IMM32 (30_encoding.md R123). -/
abbrev fits32 (x : Nat) : Bool := decide (x < 2 ^ 32)

/-- The signed 32-bit immediate CAP (30_encoding.md R127). -/
abbrev fitsCap (c : Int) : Bool := decide (-2 ^ 31 ≤ c ∧ c < 2 ^ 31)

/-- Every immediate of the command fits its field (30_encoding.md R121, R123 to R127). -/
def Instr.wellFormed : Instr → Bool
  | .nop => true
  | .wmovi _ imm => fits32 imm
  | .nsetw _ _ => true
  | .ngetw _ _ j => fits16 j
  | .nputw _ _ j => fits16 j
  | .ncopy _ _ => true
  | .cteq _ _ _ => true
  | .ctgt _ _ _ => true
  | .ctifelse _ _ _ _ => true
  | .div1 _ _ _ _ _ => true
  | .addvv _ _ _ _ k => fits16 k
  | .subvv _ _ _ _ k => fits16 k
  | .shlvu _ _ _ k s => fits16 k && fits16 s
  | .shrvu _ _ _ k s => fits16 k && fits16 s
  | .addmulvvw _ _ _ _ k => fits16 k
  | .mulsubvvw _ _ _ _ k => fits16 k
  | .addvw _ _ _ _ k => fits16 k
  | .subvw _ _ _ _ k => fits16 k
  | .ctcondcopy _ _ _ => true
  | .ctcondswap _ _ _ => true
  | .nresize _ _ cap => fitsCap cap
  | .nadd _ _ _ cap => fitsCap cap
  | .nsub _ _ _ cap => fitsCap cap
  | .nmul _ _ _ cap => fitsCap cap
  | .nlsh _ _ _ cap => fitsCap cap
  | .nrsh _ _ _ cap => fitsCap cap
  | .ncmp _ _ _ _ _ => true
  | .neq _ _ _ => true
  | .neqzero _ _ => true
  | .modset _ _ => true
  | .shiftaddin _ _ _ _ => true
  | .mod _ _ _ => true
  | .div _ _ _ cap => fitsCap cap
  | .modadd _ _ _ _ => true
  | .modsub _ _ _ _ => true
  | .modneg _ _ _ => true
  | .modmul _ _ _ _ => true
  | .montmul _ _ _ _ => true
  | .montrep _ _ _ => true
  | .exp _ _ _ _ => true
  | .modinv _ _ _ => true
  | .coprime _ _ _ => true
  | .modsqrt _ _ _ => true

end Sys2Proof
end

