-- ==== Sys2Proof/Decode.lean ====
section
/-!
DEFINITION. The command word: its fields, the 26 formats, the opcode map, the total decoder with its
two decode errors, and the encoder (30_encoding.md R120 to R132).
-/

namespace Sys2Proof

/-! ## Fields (R121) -/

/-- `v[lo+n-1 : lo]` of 00_scope.md R10. -/
def bitsOf (v : BusWord) (lo n : Nat) : Nat := v.toNat / 2 ^ lo % 2 ^ n

/-- The fields of a command word (30_encoding.md R121). -/
structure Fields where
  op  : Nat
  d   : Fin 16 := 0
  e   : Fin 16 := 0
  a   : Fin 16 := 0
  b   : Fin 16 := 0
  c   : Fin 16 := 0
  mreg : Fin 4 := 0
  rsv : Nat := 0
  imm : Nat := 0
deriving DecidableEq, Repr

/-- Field positions, the same in every format (30_encoding.md R121). -/
def Fields.unpack (v : BusWord) : Fields where
  op  := bitsOf v 56 8
  d   := Fin.ofNat 16 (bitsOf v 52 4)
  e   := Fin.ofNat 16 (bitsOf v 48 4)
  a   := Fin.ofNat 16 (bitsOf v 44 4)
  b   := Fin.ofNat 16 (bitsOf v 40 4)
  c   := Fin.ofNat 16 (bitsOf v 36 4)
  mreg := Fin.ofNat 4 (bitsOf v 34 2)
  rsv := bitsOf v 32 2
  imm := bitsOf v 0 32

/-- The word with the given fields (30_encoding.md R121). -/
def Fields.pack (f : Fields) : BusWord :=
  BitVec.ofNat 64
    (f.op * 2 ^ 56 + f.d.val * 2 ^ 52 + f.e.val * 2 ^ 48 + f.a.val * 2 ^ 44 + f.b.val * 2 ^ 40 +
      f.c.val * 2 ^ 36 + f.mreg.val * 2 ^ 34 + f.rsv * 2 ^ 32 + f.imm)

/-- K and J: `IMM[15:0]`, unsigned (30_encoding.md R124, R126). -/
def Fields.low16 (f : Fields) : Nat := f.imm % 2 ^ 16

/-- S: `IMM[31:16]`, unsigned (30_encoding.md R125). -/
def Fields.high16 (f : Fields) : Nat := f.imm / 2 ^ 16

/-- CAP: IMM read as a signed two's-complement integer (30_encoding.md R127). -/
def Fields.cap (f : Fields) : Int :=
  if f.imm < 2 ^ 31 then (f.imm : Int) else (f.imm : Int) - 2 ^ 32

/-! ## Formats (R122, R130) -/

/-- The formats of 30_encoding.md R122. -/
inductive Format where
  | z | wi | w2 | w3 | wd | v | vs | vw | cc | cw | n1 | nr | nc | ns | ncmp | ne | nz | nw | ngw | npw
  | ms | sa | m1 | m2 | md | wc
deriving DecidableEq, Repr

/-- Which bits of IMM a format uses (30_encoding.md R130). -/
inductive ImmUse where
  | none
  | low16
  | all
deriving DecidableEq, Repr

/-- Which fields a format uses (30_encoding.md R122). -/
structure Uses where
  d   : Bool
  e   : Bool
  a   : Bool
  b   : Bool
  c   : Bool
  mreg : Bool
  imm : ImmUse
deriving DecidableEq, Repr

/-- The table of 30_encoding.md R122: columns D, E, A, B, C, MK, IMM. -/
def Format.uses : Format → Uses
  | .z    => ⟨false, false, false, false, false, false, .none⟩
  | .wi   => ⟨true,  false, false, false, false, false, .all⟩
  | .w2   => ⟨true,  false, true,  true,  false, false, .none⟩
  | .w3   => ⟨true,  false, true,  true,  true,  false, .none⟩
  | .wd   => ⟨true,  true,  true,  true,  true,  false, .none⟩
  | .v    => ⟨true,  true,  true,  true,  false, false, .low16⟩
  | .vs   => ⟨true,  true,  true,  false, false, false, .all⟩
  | .vw   => ⟨true,  true,  true,  true,  false, false, .low16⟩
  | .cc   => ⟨true,  false, true,  false, true,  false, .none⟩
  | .cw   => ⟨true,  true,  false, false, true,  false, .none⟩
  | .n1   => ⟨true,  false, true,  false, false, false, .none⟩
  | .nr   => ⟨true,  false, true,  false, false, false, .all⟩
  | .nc   => ⟨true,  false, true,  true,  false, false, .all⟩
  | .ns   => ⟨true,  false, true,  true,  false, false, .all⟩
  | .ncmp => ⟨true,  true,  true,  true,  true,  false, .none⟩
  | .ne   => ⟨true,  false, true,  true,  false, false, .none⟩
  | .nz   => ⟨true,  false, true,  false, false, false, .none⟩
  | .nw   => ⟨true,  false, true,  false, false, false, .none⟩
  | .ngw  => ⟨true,  false, true,  false, false, false, .low16⟩
  | .npw  => ⟨true,  false, true,  false, false, false, .low16⟩
  | .ms   => ⟨false, false, true,  false, false, true,  .none⟩
  | .sa   => ⟨true,  true,  true,  false, false, true,  .none⟩
  | .m1   => ⟨true,  false, true,  false, false, true,  .none⟩
  | .m2   => ⟨true,  false, true,  true,  false, true,  .none⟩
  | .md   => ⟨true,  false, true,  false, false, true,  .all⟩
  | .wc   => ⟨true,  false, true,  true,  false, false, .none⟩

/-- The bits of IMM outside the used ones are 0 (30_encoding.md R130). -/
def ImmUse.clear (u : ImmUse) (imm : Nat) : Bool :=
  match u with
  | .none => imm == 0
  | .low16 => imm / 2 ^ 16 == 0
  | .all => true

/-- Every bit the format does not use is 0, and RSV is 0 (30_encoding.md R130). -/
def Format.clear (fmt : Format) (f : Fields) : Bool :=
  let u := fmt.uses
  (u.d || f.d == 0) && (u.e || f.e == 0) && (u.a || f.a == 0) && (u.b || f.b == 0) &&
    (u.c || f.c == 0) && (u.mreg || f.mreg == 0) && f.rsv == 0 && u.imm.clear f.imm

/-! ## Opcode map (R128) -/

/-- One row of the opcode map: the opcode, its format, and the command its fields make. -/
structure OpcodeRow where
  op     : Nat
  format : Format
  build  : Fields → Instr

/-- Opcodes `0x00` to `0x13` (30_encoding.md R128). -/
def opcodeRowsAccess : List OpcodeRow :=
  [ ⟨0x00, .z,   fun _ => .nop⟩,
    ⟨0x01, .wi,  fun f => .wmovi f.d f.imm⟩,
    ⟨0x02, .nw,  fun f => .nsetw f.d f.a⟩,
    ⟨0x03, .ngw, fun f => .ngetw f.d f.a f.low16⟩,
    ⟨0x04, .npw, fun f => .nputw f.d f.a f.low16⟩,
    ⟨0x05, .n1,  fun f => .ncopy f.d f.a⟩,
    ⟨0x10, .w2,  fun f => .cteq f.d f.a f.b⟩,
    ⟨0x11, .w2,  fun f => .ctgt f.d f.a f.b⟩,
    ⟨0x12, .w3,  fun f => .ctifelse f.d f.a f.b f.c⟩,
    ⟨0x13, .wd,  fun f => .div1 f.d f.e f.a f.b f.c⟩ ]

/-- Opcodes `0x20` to `0x29` (30_encoding.md R128). -/
def opcodeRowsVector : List OpcodeRow :=
  [ ⟨0x20, .v,  fun f => .addvv f.d f.e f.a f.b f.low16⟩,
    ⟨0x21, .v,  fun f => .subvv f.d f.e f.a f.b f.low16⟩,
    ⟨0x22, .vs, fun f => .shlvu f.d f.e f.a f.low16 f.high16⟩,
    ⟨0x23, .vs, fun f => .shrvu f.d f.e f.a f.low16 f.high16⟩,
    ⟨0x24, .vw, fun f => .addmulvvw f.d f.e f.a f.b f.low16⟩,
    ⟨0x25, .vw, fun f => .mulsubvvw f.d f.e f.a f.b f.low16⟩,
    ⟨0x26, .vw, fun f => .addvw f.d f.e f.a f.b f.low16⟩,
    ⟨0x27, .vw, fun f => .subvw f.d f.e f.a f.b f.low16⟩,
    ⟨0x28, .cc, fun f => .ctcondcopy f.d f.a f.c⟩,
    ⟨0x29, .cw, fun f => .ctcondswap f.d f.e f.c⟩ ]

/-- Opcodes `0x30` to `0x38` (30_encoding.md R128). -/
def opcodeRowsNat : List OpcodeRow :=
  [ ⟨0x30, .nr,   fun f => .nresize f.d f.a f.cap⟩,
    ⟨0x31, .nc,   fun f => .nadd f.d f.a f.b f.cap⟩,
    ⟨0x32, .nc,   fun f => .nsub f.d f.a f.b f.cap⟩,
    ⟨0x33, .nc,   fun f => .nmul f.d f.a f.b f.cap⟩,
    ⟨0x34, .ns,   fun f => .nlsh f.d f.a f.b f.cap⟩,
    ⟨0x35, .ns,   fun f => .nrsh f.d f.a f.b f.cap⟩,
    ⟨0x36, .ncmp, fun f => .ncmp f.d f.e f.a f.b f.c⟩,
    ⟨0x37, .ne,   fun f => .neq f.d f.a f.b⟩,
    ⟨0x38, .nz,   fun f => .neqzero f.d f.a⟩ ]

/-- Opcodes `0x40` to `0x90` (30_encoding.md R128). -/
def opcodeRowsModular : List OpcodeRow :=
  [ ⟨0x40, .ms, fun f => .modset f.a f.mreg⟩,
    ⟨0x41, .sa, fun f => .shiftaddin f.d f.e f.a f.mreg⟩,
    ⟨0x42, .m1, fun f => .mod f.d f.a f.mreg⟩,
    ⟨0x43, .md, fun f => .div f.d f.a f.mreg f.cap⟩,
    ⟨0x50, .m2, fun f => .modadd f.d f.a f.b f.mreg⟩,
    ⟨0x51, .m2, fun f => .modsub f.d f.a f.b f.mreg⟩,
    ⟨0x52, .m1, fun f => .modneg f.d f.a f.mreg⟩,
    ⟨0x53, .m2, fun f => .modmul f.d f.a f.b f.mreg⟩,
    ⟨0x60, .m2, fun f => .montmul f.d f.a f.b f.mreg⟩,
    ⟨0x61, .m1, fun f => .montrep f.d f.a f.mreg⟩,
    ⟨0x70, .m2, fun f => .exp f.d f.a f.b f.mreg⟩,
    ⟨0x80, .m1, fun f => .modinv f.d f.a f.mreg⟩,
    ⟨0x81, .wc, fun f => .coprime f.d f.a f.b⟩,
    ⟨0x90, .m1, fun f => .modsqrt f.d f.a f.mreg⟩ ]

/-- The whole opcode map; every other opcode is reserved (30_encoding.md R128, R129). -/
def opcodeRows : List OpcodeRow :=
  opcodeRowsAccess ++ opcodeRowsVector ++ opcodeRowsNat ++ opcodeRowsModular

/-- The row of an opcode, none for a reserved one (30_encoding.md R129). -/
def findRow (op : Nat) : Option OpcodeRow := opcodeRows.find? fun r => r.op == op

/-! ## Decoder (R132) -/

/-- Why a word is no command: the first two codes of 60_exceptions.md R402. -/
inductive DecodeError where
  /-- OP is a reserved opcode (30_encoding.md R129). -/
  | illegalOpcode
  /-- A bit the format does not use, or RSV, is 1 (30_encoding.md R130). -/
  | reservedField
deriving DecidableEq, Repr

/-- A word is a command, or the first failing check of 30_encoding.md R132 names its error. -/
inductive Decoded where
  | command (i : Instr)
  | illegal (e : DecodeError)
deriving DecidableEq, Repr

/-- Checks (1) and (2) of 30_encoding.md R132 on unpacked fields, then the command they make. -/
def decodeFields (f : Fields) : Decoded :=
  match findRow f.op with
  | none => .illegal .illegalOpcode
  | some r => if r.format.clear f then .command (r.build f) else .illegal .reservedField

/-- Total decoding of a command word (30_encoding.md R132). -/
def decode (v : BusWord) : Decoded := decodeFields (Fields.unpack v)

/-! ## Encoder -/

/-- The 32-bit two's-complement image of CAP (30_encoding.md R127). -/
def capField (cap : Int) : Nat := (cap % 2 ^ 32).toNat

/-- The fields of a command (30_encoding.md R121, R122, R128). -/
def Instr.toFields : Instr → Fields
  | .nop => { op := 0x00 }
  | .wmovi d imm => { op := 0x01, d := d, imm := imm }
  | .nsetw d a => { op := 0x02, d := d, a := a }
  | .ngetw d a j => { op := 0x03, d := d, a := a, imm := j }
  | .nputw d a j => { op := 0x04, d := d, a := a, imm := j }
  | .ncopy d a => { op := 0x05, d := d, a := a }
  | .cteq d a b => { op := 0x10, d := d, a := a, b := b }
  | .ctgt d a b => { op := 0x11, d := d, a := a, b := b }
  | .ctifelse d a b c => { op := 0x12, d := d, a := a, b := b, c := c }
  | .div1 d e a b c => { op := 0x13, d := d, e := e, a := a, b := b, c := c }
  | .addvv d e a b k => { op := 0x20, d := d, e := e, a := a, b := b, imm := k }
  | .subvv d e a b k => { op := 0x21, d := d, e := e, a := a, b := b, imm := k }
  | .shlvu d e a k s => { op := 0x22, d := d, e := e, a := a, imm := s * 2 ^ 16 + k }
  | .shrvu d e a k s => { op := 0x23, d := d, e := e, a := a, imm := s * 2 ^ 16 + k }
  | .addmulvvw d e a b k => { op := 0x24, d := d, e := e, a := a, b := b, imm := k }
  | .mulsubvvw d e a b k => { op := 0x25, d := d, e := e, a := a, b := b, imm := k }
  | .addvw d e a b k => { op := 0x26, d := d, e := e, a := a, b := b, imm := k }
  | .subvw d e a b k => { op := 0x27, d := d, e := e, a := a, b := b, imm := k }
  | .ctcondcopy d a c => { op := 0x28, d := d, a := a, c := c }
  | .ctcondswap d e c => { op := 0x29, d := d, e := e, c := c }
  | .nresize d a cap => { op := 0x30, d := d, a := a, imm := capField cap }
  | .nadd d a b cap => { op := 0x31, d := d, a := a, b := b, imm := capField cap }
  | .nsub d a b cap => { op := 0x32, d := d, a := a, b := b, imm := capField cap }
  | .nmul d a b cap => { op := 0x33, d := d, a := a, b := b, imm := capField cap }
  | .nlsh d a b cap => { op := 0x34, d := d, a := a, b := b, imm := capField cap }
  | .nrsh d a b cap => { op := 0x35, d := d, a := a, b := b, imm := capField cap }
  | .ncmp d e a b c => { op := 0x36, d := d, e := e, a := a, b := b, c := c }
  | .neq d a b => { op := 0x37, d := d, a := a, b := b }
  | .neqzero d a => { op := 0x38, d := d, a := a }
  | .modset a mk => { op := 0x40, a := a, mreg := mk }
  | .shiftaddin d e a mk => { op := 0x41, d := d, e := e, a := a, mreg := mk }
  | .mod d a mk => { op := 0x42, d := d, a := a, mreg := mk }
  | .div d a mk cap => { op := 0x43, d := d, a := a, mreg := mk, imm := capField cap }
  | .modadd d a b mk => { op := 0x50, d := d, a := a, b := b, mreg := mk }
  | .modsub d a b mk => { op := 0x51, d := d, a := a, b := b, mreg := mk }
  | .modneg d a mk => { op := 0x52, d := d, a := a, mreg := mk }
  | .modmul d a b mk => { op := 0x53, d := d, a := a, b := b, mreg := mk }
  | .montmul d a b mk => { op := 0x60, d := d, a := a, b := b, mreg := mk }
  | .montrep d a mk => { op := 0x61, d := d, a := a, mreg := mk }
  | .exp d a b mk => { op := 0x70, d := d, a := a, b := b, mreg := mk }
  | .modinv d a mk => { op := 0x80, d := d, a := a, mreg := mk }
  | .coprime d a b => { op := 0x81, d := d, a := a, b := b }
  | .modsqrt d a mk => { op := 0x90, d := d, a := a, mreg := mk }

/-- The command word of a well-formed command (30_encoding.md R120, R121). -/
def encode (i : Instr) : BusWord := i.toFields.pack

/-- What the decoder reads from a word whose low `nbits` bits are those of `w`, for the host's
check of spec/opcode_table.json. A command is one 64-bit word, so the table's bit numbers are the
word's own (30_encoding.md R120). -/
def decodeTableWord (nbits w : Nat) : Option Instr :=
  match decode (BitVec.ofNat 64 (w % 2 ^ nbits)) with
  | .command i => some i
  | .illegal _ => none

end Sys2Proof
end

