-- ==== Sys2Proof/Config.lean ====
section
/-!
DEFINITION. What an instance of the engine fixes (its parameters) and what the spec leaves free
(the draws and the cycle counts), the latter as opaque constants that no proof can see through.
-/

namespace Sys2Proof

/-- The limb width `W`, 32 or 64 (00_scope.md R6). -/
inductive Width where
  | w32
  | w64
deriving DecidableEq, Repr

/-- `W` as a number of bits (00_scope.md R6). -/
def Width.bits : Width → Nat
  | .w32 => 32
  | .w64 => 64

/-- The parameters of an instance `SCE1-W<W>-L<L>`, fixed for its life (00_scope.md R6, R7, R9;
10_state.md R59). `limbsPred` is `L - 1`, so that `1 <= L <= 8192` by its type; `baseIndex` is
`ENGINE_BASE / 0x40_0000`, so that ENGINE_BASE is a multiple of 0x40_0000 (20_memory.md R82). -/
structure Params where
  width     : Width
  limbsPred : Fin 8192
  baseIndex : Nat
deriving DecidableEq, Repr

/-- `L`, the number of limbs of a Nat or modulus register (00_scope.md R7). -/
def Params.limbs (p : Params) : Nat := p.limbsPred.val + 1

/-- `ENGINE_BASE` (20_memory.md R83). -/
def Params.base (p : Params) : Nat := p.baseIndex * 0x400000

/-- What the duration of one command may depend on (00_scope.md R13; 70_reset_and_hazards.md R472):
the command word, the announced lengths and tags of its Nat operands, the size, leading and even
fields of its modulus, and the one further quantity the command's rule makes public. -/
structure TimingView where
  cmd      : BusWord
  operands : List (Nat × Option MReg)
  modulus  : Option (Nat × Nat × Bool)
  leak     : Option Nat
deriving DecidableEq, Repr

/-- The value of draw number `i`, a free value (00_scope.md R12): it has no body, so nothing can be
proved of it. DESIGN CHOICE, log entry 5: each draw takes a fresh number and is reduced into the set
its rule names. -/
opaque Config.freeValue : Nat → Nat

/-- Cycles of a command beyond its first, the open parameter of 70_reset_and_hazards.md R470: a
function of the timing view only. DESIGN CHOICE, log entry 6: one function serves every instance, so
instances with another `W` or `L` share it, which 10_state.md R59 leaves open. -/
opaque Config.cyclesBeyondFirst : TimingView → Nat

/-- `cycles(cw, P)`, at least 1 (70_reset_and_hazards.md R470). No step reads it (log entry 6). -/
def Config.cycles (v : TimingView) : Nat := Config.cyclesBeyondFirst v + 1

end Sys2Proof
end

