-- ==== Sys2Proof/Machine/State.lean ====
section
/-!
DEFINITION. Everything the spec gives the engine to hold (10_state.md R30 to R60), beside it the
model's own four fields (the events to come, the bus reply, the fault log, the draw counter), the
reasons a step can stop, and the state after reset.
-/

namespace Sys2Proof.Machine

/-! ## Error codes -/

/-- The error codes of 60_exceptions.md R402, in the order of the table. -/
inductive ErrCode where
  /-- No error; the value of ERRCODE while ERR is 0. -/
  | none
  /-- OP is a reserved opcode. -/
  | illegalOpcode
  /-- A bit the format does not use, or RSV, is 1. -/
  | reservedField
  /-- The named modulus register has `valid = 0`. -/
  | modulusInvalid
  /-- The named modulus is even and the command needs an odd one. -/
  | modulusEven
  /-- A length or an index is out of range. -/
  | length
  /-- A shift amount `s >= W`. -/
  | shift
  /-- MODSET from a Nat whose value is 0. -/
  | emptyModulus
deriving DecidableEq, Repr

/-! ## Register files -/

/-- A Nat register: announced length, value, reduced tag (10_state.md R31). -/
structure NatReg where
  ann : Nat
  val : Nat
  tag : Option MReg
deriving DecidableEq, Repr

/-- The empty Nat (10_state.md R60). -/
def NatReg.empty : NatReg := ⟨0, 0, none⟩

/-- A modulus register (10_state.md R40). -/
structure ModReg where
  valid   : Bool
  val     : Nat
  size    : Nat
  leading : Nat
  m0inv   : Nat
  even    : Bool
deriving DecidableEq, Repr

/-- A modulus register that was never set (10_state.md R42). -/
def ModReg.empty : ModReg := ⟨false, 0, 0, 0, 0, false⟩

/-! ## The host's side -/

/-- A bus access (20_memory.md R82): a byte address, a size in bytes, write or read, and the data of
a write. -/
structure Access where
  addr  : Nat
  size  : Nat
  write : Bool
  data  : BusWord
deriving DecidableEq, Repr

/-- One step of the interleaving of 20_memory.md R98: a bus access, the engine's completion step, or
an assertion of the reset input (70_reset_and_hazards.md R450). -/
inductive Event where
  | access (x : Access)
  | engine
  | reset
deriving DecidableEq, Repr

/-- What the bus carries back for an access: the data of a read (0 for a write), and whether the
response is a bus error (20_memory.md R86). -/
structure Reply where
  data     : BusWord
  busError : Bool
deriving DecidableEq, Repr

/-- An entry of the fault log (93_implementation_defined.md part 3 and I13). -/
inductive FaultRecord where
  /-- A command that completed with an error: its code and its command word. -/
  | command (code : ErrCode) (cmd : BusWord)
  /-- An access that got a bus error response (20_memory.md R86). -/
  | bus (x : Access)
deriving DecidableEq, Repr

/-! ## State -/

/-- The state of the engine and of the run it is in. -/
structure State where
  /-- Parameters of the instance; no step changes them (10_state.md R59). -/
  params   : Params
  /-- The Nat register file (10_state.md R31). -/
  n        : Vector NatReg 16
  /-- The word register file, each entry below `2^W` (10_state.md R38). -/
  w        : Vector Nat 16
  /-- The modulus register file (10_state.md R40). -/
  m        : Vector ModReg 4
  /-- CTRL.IE (10_state.md R49). -/
  ie       : Bool
  /-- STATUS.BUSY (10_state.md R50). -/
  busy     : Bool
  /-- STATUS.DONE (10_state.md R50). -/
  done     : Bool
  /-- STATUS.ERR (10_state.md R50). -/
  err      : Bool
  /-- STATUS.CMDOVR (10_state.md R50). -/
  cmdovr   : Bool
  /-- STATUS.ACCERR (10_state.md R50). -/
  accerr   : Bool
  /-- STATUS.ERRCODE (10_state.md R50). -/
  errcode  : ErrCode
  /-- CMD, the last accepted command word (10_state.md R51). -/
  cmd      : BusWord
  /-- ERRCMD (10_state.md R52). -/
  errcmd   : BusWord
  /-- CMDCNT (10_state.md R53). -/
  cmdcnt   : BitVec 64
  /-- MODEL: the events still to come, in the order in which they happen (20_memory.md R98; log
  entry 2). -/
  script   : List Event
  /-- MODEL: what the bus carried back for the last access (log entry 3). -/
  reply    : Option Reply
  /-- MODEL: engine errors and bus errors so far, oldest first; no step clears it
  (93_implementation_defined.md part 3; log entry 4). -/
  faultLog : List FaultRecord
  /-- MODEL: how many draws were taken (00_scope.md R12; log entry 5). -/
  draws    : Nat
deriving DecidableEq, Repr

/-! ## Reasons to stop -/

/-- Why a step stops the model. The engine itself has no fault that stops it: its errors are next
states (60_exceptions.md R403). -/
inductive Fault where
  /-- Raised by a bus access whose address is outside the engine's window: the engine answers only
  `0 <= off < 0x40_0000` (20_memory.md R82), and what else stands on the host's bus the spec does
  not say. Safe: the model stops where the host's system goes on (log entry 7). -/
  | outsideWindow (addr : Nat)
deriving DecidableEq, Repr

/-- Why the model has no meaning for a step. -/
inductive Refusal where
  /-- A command without a meaning yet. No arm of `exec` raises it. Safe: the model stops. -/
  | notModelled (mnemonic : String)
deriving DecidableEq, Repr

/-! ## Reset -/

/-- The state right after the reset of an instance, nothing of its run yet done
(10_state.md R60; 70_reset_and_hazards.md R450). -/
def State.resetOf (p : Params) : State where
  params   := p
  n        := Vector.replicate 16 NatReg.empty
  w        := Vector.replicate 16 0
  m        := Vector.replicate 4 ModReg.empty
  ie       := false
  busy     := false
  done     := false
  err      := false
  cmdovr   := false
  accerr   := false
  errcode  := .none
  cmd      := 0
  errcmd   := 0
  cmdcnt   := 0
  script   := []
  reply    := none
  faultLog := []
  draws    := 0

/-- The instance the model resets to: `SCE1-W64-L64`, the example of 00_scope.md R2, at
ENGINE_BASE 0. DESIGN CHOICE, log entry 1. -/
def Params.default : Params := ⟨.w64, 63, 0⟩

/-- The machine right after reset. -/
def State.reset : State := State.resetOf Params.default

end Sys2Proof.Machine
end

