-- ==== Sys2Proof/Machine/Flags.lean ====
section
/-!
DEFINITION. The engine has no flags register (10_state.md R48): each carry, borrow and Choice is a
word. This file has the word predicates and masks (40_limb_primitives.md R163, R164) and the limb
kernels, which give a result and the carry or borrow word beside it (R176 to R183). All are on plain
integers; `W` is the limb width and `k` the limb count.
-/

namespace Sys2Proof.Machine

/-- `trunc_N(v)` (00_scope.md R10). -/
def trunc (n v : Nat) : Nat := v % 2 ^ n

/-- `bitlen(v)`, with `bitlen(0) = 0` (00_scope.md R10). -/
def bitlen (v : Nat) : Nat := if v = 0 then 0 else Nat.log2 v + 1

/-- A truth value as a Choice (10_state.md R39). -/
def choice (b : Bool) : Nat := if b then 1 else 0

/-! ## Word predicates (R163) -/

/-- `ctEq` (40_limb_primitives.md R163). -/
def ctEq (x y : Nat) : Nat := choice (decide (x = y))

/-- `ctGt`, unsigned (40_limb_primitives.md R163). -/
def ctGt (x y : Nat) : Nat := choice (decide (y < x))

/-- `trunc_W(0 - v)`, the mask of a Choice (40_limb_primitives.md R163). -/
def wordMask (W v : Nat) : Nat := (2 ^ W - v % 2 ^ W) % 2 ^ W

/-- `ctIfElse(v, x, y) = y XOR (mask AND (x XOR y))` (40_limb_primitives.md R163). -/
def ctIfElse (W v x y : Nat) : Nat := y ^^^ (wordMask W v &&& (x ^^^ y))

/-- `Mask(v, t)`: the word mask repeated in `t` limbs (40_limb_primitives.md R164). -/
def limbMask (W v : Nat) : Nat → Nat
  | 0 => 0
  | t + 1 => limbMask W v t + wordMask W v * 2 ^ (t * W)

/-- `Sel(v, x, y, t)`, the limb-wise `ctIfElse` (40_limb_primitives.md R164). -/
def sel (W v x y t : Nat) : Nat := y ^^^ (limbMask W v t &&& (x ^^^ y))

/-! ## Limb kernels: (result, carry or borrow word) -/

/-- `addVV` (40_limb_primitives.md R176). -/
def addVV (W k x y : Nat) : Nat × Nat := ((x + y) % 2 ^ (k * W), (x + y) / 2 ^ (k * W))

/-- `subVV` (40_limb_primitives.md R177). -/
def subVV (W k x y : Nat) : Nat × Nat :=
  let t : Int := (x : Int) - (y : Int)
  ((t % 2 ^ (k * W)).toNat, choice (decide (t < 0)))

/-- `shlVU`: the bits shifted out are right-aligned in the carry (40_limb_primitives.md R178;
PRESUMED in the spec itself, log entry 16). -/
def shlVU (W k x s : Nat) : Nat × Nat := (x * 2 ^ s % 2 ^ (k * W), x * 2 ^ s / 2 ^ (k * W))

/-- `shrVU`: the bits shifted out are left-aligned in the carry, and the carry is 0 when `s = 0`
(40_limb_primitives.md R179; PRESUMED in the spec itself, log entry 16). -/
def shrVU (W x s : Nat) : Nat × Nat := (x / 2 ^ s, x % 2 ^ s * 2 ^ (W - s))

/-- `addMulVVW` (40_limb_primitives.md R180). -/
def addMulVVW (W k z x y : Nat) : Nat × Nat :=
  ((z + x * y) % 2 ^ (k * W), (z + x * y) / 2 ^ (k * W))

/-- `mulSubVVW`: the borrow word is the exact `(z' - T) / 2^(k*W)` (40_limb_primitives.md R181). -/
def mulSubVVW (W k z x y : Nat) : Nat × Nat :=
  let t : Int := (z : Int) - (x : Int) * (y : Int)
  let r : Int := t % 2 ^ (k * W)
  (r.toNat, ((r - t) / 2 ^ (k * W)).toNat)

/-- `addVW` (40_limb_primitives.md R182). -/
def addVW (W k x y : Nat) : Nat × Nat := ((x + y) % 2 ^ (k * W), (x + y) / 2 ^ (k * W))

/-- `subVW` (40_limb_primitives.md R183). -/
def subVW (W k x y : Nat) : Nat × Nat :=
  let t : Int := (x : Int) - (y : Int)
  ((t % 2 ^ (k * W)).toNat, choice (decide (t < 0)))

/-- The in-domain result of the single-word division: quotient and remainder of `hi:lo` by `dv`, for
`dv != 0` and `hi < dv` (40_limb_primitives.md R173). -/
def divWords (W hi lo dv : Nat) : Nat × Nat := ((hi * 2 ^ W + lo) / dv, (hi * 2 ^ W + lo) % dv)

/-! ## Shifts by any amount

`X * 2^s mod 2^cap` and `floor(X / 2^s)`, written so that an amount past the width computes nothing
(41_nat_arithmetic.md R210, R211). -/

/-- `(x * 2^s) mod 2^cap` (41_nat_arithmetic.md R210). -/
def shlTrunc (x s cap : Nat) : Nat := if cap ≤ s then 0 else x * 2 ^ s % 2 ^ cap

/-- `floor(x / 2^s)` (41_nat_arithmetic.md R211). -/
def shrNat (x s : Nat) : Nat := if bitlen x ≤ s then 0 else x / 2 ^ s

end Sys2Proof.Machine
end

