-- ==== Sys2Proof/Machine/Ops.lean ====
section
/-!
DEFINITION. The named operations over the register files and the status: reading and writing a
register, a limb, taking a draw, completing a command with or without an error
(60_exceptions.md R400, R403), acknowledging an error, and reset (70_reset_and_hazards.md R450,
R451).
-/

namespace Sys2Proof.Machine

/-! ## Parameters -/

/-- `W` (00_scope.md R6). -/
def State.W (s : State) : Nat := s.params.width.bits

/-- `L` (00_scope.md R7). -/
def State.L (s : State) : Nat := s.params.limbs

/-- `L*W`, the largest announced length (00_scope.md R7). -/
def State.capacity (s : State) : Nat := s.L * s.W

/-- `nlimbs(a) = ceil(a / W)` (00_scope.md R11). -/
def nlimbs (W a : Nat) : Nat := (a + W - 1) / W

/-- Limb `j` of a value, `v[(j+1)*W-1 : j*W]` (10_state.md R32, R44). -/
def limbOf (W v j : Nat) : Nat := v / 2 ^ (j * W) % 2 ^ W

/-- `v - limb*2^(j*W) + u*2^(j*W)`: limb `j` of `v` replaced by `u` (20_memory.md R92;
41_nat_arithmetic.md R204). -/
def putLimb (W v j u : Nat) : Nat := v - limbOf W v j * 2 ^ (j * W) + u * 2 ^ (j * W)

/-! ## Registers -/

/-- Nat register `n[i]` (00_scope.md R11). -/
def State.nreg (s : State) (i : NReg) : NatReg := s.n[i.val]

/-- Word register `w[i]` (00_scope.md R11). -/
def State.wreg (s : State) (i : WReg) : Nat := s.w[i.val]

/-- Modulus register `m[k]` (00_scope.md R11). -/
def State.mreg (s : State) (k : MReg) : ModReg := s.m[k.val]

/-- `limb(i, j)` (00_scope.md R11). -/
def State.limb (s : State) (i : NReg) (j : Nat) : Nat := limbOf s.W (s.nreg i).val j

/-- `n[i] <- (a, trunc_a(v), t)` (00_scope.md R11; 10_state.md R33). -/
def State.setN (s : State) (i : NReg) (a v : Nat) (t : Option MReg) : State :=
  { s with n := s.n.set i.val ⟨a, trunc a v, t⟩ }

/-- `w[i] <- trunc_W(v)` (00_scope.md R11). -/
def State.setW (s : State) (i : WReg) (v : Nat) : State :=
  { s with w := s.w.set i.val (trunc s.W v) }

/-- Write a modulus register and drop every reduced tag that names it (10_state.md R34;
42_modulus_reduction.md R240). -/
def State.setM (s : State) (k : MReg) (r : ModReg) : State :=
  { s with
    m := s.m.set k.val r
    n := s.n.map fun x => if x.tag = some k then { x with tag := none } else x }

/-- `BitLen(k) = size*W - leading` (10_state.md R41). -/
def ModReg.bitLen (W : Nat) (r : ModReg) : Nat := r.size * W - r.leading

/-- `R(k) = 2^(W*size)` (10_state.md R41). -/
def ModReg.radix (W : Nat) (r : ModReg) : Nat := 2 ^ (W * r.size)

/-! ## Draws -/

/-- The next draw, a free value of the set `[0, n)` (00_scope.md R12; log entry 5). -/
def State.draw (s : State) (n : Nat) : Nat := Config.freeValue s.draws % n

/-- One draw taken. -/
def State.drawn (s : State) : State := { s with draws := s.draws + 1 }

/-! ## Completion, error and acknowledgement -/

/-- What every completion does: BUSY 0, DONE 1, CMDCNT one more (60_exceptions.md R400). -/
def State.complete (s : State) : State :=
  { s with busy := false, done := true, cmdcnt := s.cmdcnt + 1 }

/-- Completion with an error: no register file changes, ERR, ERRCODE and ERRCMD record it
(60_exceptions.md R403), and the fault log keeps it (93_implementation_defined.md part 3; DESIGN
CHOICE, log entries 4 and 9). -/
def State.fail (s : State) (e : ErrCode) : State :=
  State.complete
    { s with
      err := true
      errcode := e
      errcmd := s.cmd
      faultLog := s.faultLog ++ [.command e s.cmd] }

/-- The host's acknowledgement, which re-enables acceptance: ERR 0 and ERRCODE 0
(20_memory.md R95; 60_exceptions.md R411). -/
def State.ackErr (s : State) : State := { s with err := false, errcode := .none }

/-- The outcome of a command whose writes gave `s`. -/
def finish (s : State) : Host.Outcome State Fault Refusal := .next s.complete

/-- The outcome of a command that ends with `Error(e)`. -/
def abort (s : State) (e : ErrCode) : Host.Outcome State Fault Refusal := .next (s.fail e)

/-! ## Status outputs and reset -/

/-- The interrupt line, `CTRL.IE AND STATUS.DONE` (10_state.md R58; 60_exceptions.md R410). -/
def State.irq (s : State) : Bool := s.ie && s.done

/-- Hardware and soft reset: every piece of the engine's state at its reset value
(70_reset_and_hazards.md R450, R451). The parameters, and the run's own script, reply, fault log and
draw counter, are not the engine's state and stay (DEDUCED, log entry 10). -/
def State.engineReset (s : State) : State :=
  { State.resetOf s.params with
    script := s.script
    reply := s.reply
    faultLog := s.faultLog
    draws := s.draws }

end Sys2Proof.Machine
end

