-- ==== Sys2Proof/Machine/Operands.lean ====
section
/-!
DEFINITION. The operand forms: a limb vector and its count, an announced-length cap and its default,
a modulus operand with reduce-on-entry, and the two ways a result is written
(30_encoding.md R123 to R127; 40_limb_primitives.md R160, R161; 41_nat_arithmetic.md R215, R216;
42_modulus_reduction.md R242).
-/

namespace Sys2Proof.Machine

/-! ## Limb vectors (formats V, VS, VW) -/

/-- `vec(i, k) = n[i].val mod 2^(k*W)` (40_limb_primitives.md R160). -/
def State.vec (s : State) (i : NReg) (k : Nat) : Nat := (s.nreg i).val % 2 ^ (k * s.W)

/-- The count check of formats V, VS and VW: `k = 0` or `k > L` is a LENGTH error
(30_encoding.md R124). -/
def State.badCount (s : State) (k : Nat) : Bool := k == 0 || decide (s.L < k)

/-- The write form of a limb-vector command: `n[d] <- (k*W, z, NONE)` and the carry or borrow word to
`w[e]` (40_limb_primitives.md R161). -/
def State.putVec (s : State) (d : NReg) (e : WReg) (k : Nat) (r : Nat × Nat) : State :=
  (s.setN d (k * s.W) r.1 none).setW e r.2

/-- A limb-vector command: the count check, then the write of its result. -/
def vectorCommand (s : State) (d : NReg) (e : WReg) (k : Nat) (r : Nat × Nat) :
    Host.Outcome State Fault Refusal :=
  if s.badCount k then abort s .length else finish (s.putVec d e k r)

/-- A limb-vector shift: the count check, then the amount check `s >= W`, then the write
(30_encoding.md R124, R125; 60_exceptions.md R404). -/
def vectorShift (s : State) (d : NReg) (e : WReg) (k amount : Nat) (r : Nat × Nat) :
    Host.Outcome State Fault Refusal :=
  if s.badCount k then abort s .length
  else if s.W ≤ amount then abort s .shift
  else finish (s.putVec d e k r)

/-! ## Caps (formats NR, NC, NS, MD) -/

/-- The announced length of the result: CAP when it is not negative, else the default of the rule
(30_encoding.md R127). -/
def capOr (cap : Int) (dflt : Nat) : Nat := if cap < 0 then dflt else cap.toNat

/-- A command that writes `n[d] <- (cap, r mod 2^cap, NONE)` after the cap check
(41_nat_arithmetic.md R215, R216). The result is a function of the cap, so that nothing is computed
for a cap that is refused. -/
def cappedCommand (s : State) (d : NReg) (cap : Nat) (r : Nat → Nat) :
    Host.Outcome State Fault Refusal :=
  if s.capacity < cap then abort s .length else finish (s.setN d cap (r cap) none)

/-! ## Modulus operands (formats SA, M1, M2, MD) -/

/-- The check every command with a modulus operand makes first (42_modulus_reduction.md R242). -/
def withModulus (s : State) (mk : MReg) (k : ModReg → Host.Outcome State Fault Refusal) :
    Host.Outcome State Fault Refusal :=
  if (s.mreg mk).valid then k (s.mreg mk) else abort s .modulusInvalid

/-- The parity check of a command that needs an odd modulus (44_montgomery.md R301;
47_modsqrt.md R361). -/
def withOddModulus (s : State) (mk : MReg) (k : ModReg → Host.Outcome State Fault Refusal) :
    Host.Outcome State Fault Refusal :=
  withModulus s mk fun md => if md.even then abort s .modulusEven else k md

/-- `red(x) = x mod M`, reduce-on-entry (42_modulus_reduction.md R242; 43_modular_ops.md R280). -/
def State.red (s : State) (i : NReg) (md : ModReg) : Nat := (s.nreg i).val % md.val

/-- A modular result: `n[d] <- (BL, r, mk)` with `BL = bitlen(M)` (42_modulus_reduction.md R242;
DEDUCED, log entry 13). -/
def State.setResidue (s : State) (d : NReg) (mk : MReg) (md : ModReg) (r : Nat) : State :=
  s.setN d (bitlen md.val) r (some mk)

/-- A modular result that is a draw from `[0, M)` (00_scope.md R12; 60_exceptions.md R406). -/
def State.drawResidue (s : State) (d : NReg) (mk : MReg) (md : ModReg) : State :=
  (s.setResidue d mk md (s.draw md.val)).drawn

end Sys2Proof.Machine
end

