-- ==== Sys2Proof/Machine/Bus.lean ====
section
/-!
DEFINITION. The host's side of the engine: the address map, the byte order, and the read and the
write of every register of the window (20_memory.md R80 to R97; 10_state.md R45 to R56).
-/

namespace Sys2Proof.Machine

/-! ## Address map (R84) -/

/-- What stands at an aligned offset of the window (20_memory.md R84). -/
inductive BusReg where
  | id
  | config
  | ctrl
  | status
  | cmd
  | errcmd
  | cmdcnt
  | w (i : WReg)
  | nann (i : NReg)
  | mstat (k : MReg)
  | minv (k : MReg)
  | nlimb (i : NReg) (j : Nat)
  | mlimb (k : MReg) (j : Nat)
  | reserved
deriving DecidableEq, Repr

/-- The size of the window (20_memory.md R80). -/
def windowSize : Nat := 0x400000

/-- The address map of 20_memory.md R84, for an instance with `L` limbs. -/
def locate (L off : Nat) : BusReg :=
  if off = 0x000 then .id
  else if off = 0x008 then .config
  else if off = 0x010 then .ctrl
  else if off = 0x018 then .status
  else if off = 0x020 then .cmd
  else if off = 0x028 then .errcmd
  else if off = 0x030 then .cmdcnt
  else if off < 0x100 then .reserved
  else if off < 0x180 then .w (Fin.ofNat 16 ((off - 0x100) / 8))
  else if off < 0x200 then .reserved
  else if off < 0x280 then .nann (Fin.ofNat 16 ((off - 0x200) / 8))
  else if off < 0x300 then .reserved
  else if off < 0x320 then .mstat (Fin.ofNat 4 ((off - 0x300) / 8))
  else if off < 0x340 then .reserved
  else if off < 0x360 then .minv (Fin.ofNat 4 ((off - 0x340) / 8))
  else if off < 0x100000 then .reserved
  else if off < 0x200000 then
    if off % 0x10000 / 8 < L then
      .nlimb (Fin.ofNat 16 ((off - 0x100000) / 0x10000)) (off % 0x10000 / 8)
    else .reserved
  else if off < 0x240000 then
    if off % 0x10000 / 8 < L then
      .mlimb (Fin.ofNat 4 ((off - 0x200000) / 0x10000)) (off % 0x10000 / 8)
    else .reserved
  else .reserved

/-- The offset of a register, as 20_memory.md R84 writes it; none for the reserved ones. -/
def BusReg.offset : BusReg → Option Nat
  | .id => some 0x000
  | .config => some 0x008
  | .ctrl => some 0x010
  | .status => some 0x018
  | .cmd => some 0x020
  | .errcmd => some 0x028
  | .cmdcnt => some 0x030
  | .w i => some (0x100 + 8 * i.val)
  | .nann i => some (0x200 + 8 * i.val)
  | .mstat k => some (0x300 + 8 * k.val)
  | .minv k => some (0x340 + 8 * k.val)
  | .nlimb i j => some (0x100000 + 0x10000 * i.val + 8 * j)
  | .mlimb k j => some (0x200000 + 0x10000 * k.val + 8 * j)
  | .reserved => none

/-- The register files, whose reads and writes the busy engine does not serve
(20_memory.md R90 to R94). -/
def BusReg.isFile : BusReg → Bool
  | .w _ | .nann _ | .mstat _ | .minv _ | .nlimb _ _ | .mlimb _ _ => true
  | .id | .config | .ctrl | .status | .cmd | .errcmd | .cmdcnt | .reserved => false

/-! ## Byte order (R85) -/

/-- The byte at offset `off + b` of a 64-bit register: bits `[8*b+7 : 8*b]` (20_memory.md R85). -/
def busByte (v : BusWord) (b : Nat) : BitVec 8 := v.extractLsb' (8 * b) 8

/-- The integer made of the `S` bytes that go into limb `j` when a host loads a big-endian byte
string: `B[len-1-j*S-t]` at bit position `8*t`, bytes outside `B` reading as 0
(20_memory.md R85). -/
def limbOfBigEndian (S : Nat) (bytes : List (BitVec 8)) (j : Nat) : Nat → Nat
  | 0 => 0
  | t + 1 =>
    limbOfBigEndian S bytes j t +
      ((bytes.reverse)[j * S + t]?.getD 0).toNat * 2 ^ (8 * t)

/-! ## Words of the control and status registers -/

/-- ERRCODE (60_exceptions.md R402). -/
def ErrCode.code : ErrCode → Nat
  | .none => 0x00
  | .illegalOpcode => 0x01
  | .reservedField => 0x02
  | .modulusInvalid => 0x03
  | .modulusEven => 0x04
  | .length => 0x05
  | .shift => 0x06
  | .emptyModulus => 0x07

/-- ID (10_state.md R45). -/
def idWord : BusWord := BitVec.ofNat 64 (0x01 * 2 ^ 16 + 0x5AFE)

/-- CONFIG (10_state.md R46). -/
def State.configWord (s : State) : BusWord :=
  BitVec.ofNat 64 (4 * 2 ^ 48 + 16 * 2 ^ 40 + 16 * 2 ^ 32 + s.L * 2 ^ 16 + s.W)

/-- CTRL: SRST always reads 0 (10_state.md R49). -/
def State.ctrlWord (s : State) : BusWord := BitVec.ofNat 64 (choice s.ie)

/-- STATUS (10_state.md R50). -/
def State.statusWord (s : State) : BusWord :=
  BitVec.ofNat 64
    (s.errcode.code * 2 ^ 8 + choice s.accerr * 2 ^ 4 + choice s.cmdovr * 2 ^ 3 +
      choice s.err * 2 ^ 2 + choice s.done * 2 + choice s.busy)

/-- NANN: ANN, TAGV and TAGK (10_state.md R55). -/
def NatReg.annWord (r : NatReg) : BusWord :=
  match r.tag with
  | none => BitVec.ofNat 64 (r.ann % 2 ^ 32)
  | some k => BitVec.ofNat 64 (k.val * 2 ^ 33 + 2 ^ 32 + r.ann % 2 ^ 32)

/-- MSTAT: VALID, EVEN, LEADING and SIZE (10_state.md R56). -/
def ModReg.statWord (r : ModReg) : BusWord :=
  BitVec.ofNat 64
    (r.size % 2 ^ 16 * 2 ^ 32 + r.leading % 2 ^ 7 * 2 ^ 8 + choice r.even * 2 + choice r.valid)

/-! ## Reads (R89, R93, R94) -/

/-- What a register holds for a read of it (20_memory.md R87, R89, R93, R94). -/
def State.readReg (s : State) : BusReg → BusWord
  | .id => idWord
  | .config => s.configWord
  | .ctrl => s.ctrlWord
  | .status => s.statusWord
  | .cmd => s.cmd
  | .errcmd => s.errcmd
  | .cmdcnt => s.cmdcnt
  | .w i => BitVec.ofNat 64 (s.wreg i)
  | .nann i => (s.nreg i).annWord
  | .mstat k => (s.mreg k).statWord
  | .minv k => BitVec.ofNat 64 (s.mreg k).m0inv
  | .nlimb i j => BitVec.ofNat 64 (s.limb i j)
  | .mlimb k j => BitVec.ofNat 64 (limbOf s.W (s.mreg k).val j)
  | .reserved => 0

/-- The reply to an access that is answered. -/
def State.answer (s : State) (v : BusWord) : State := { s with reply := some ⟨v, false⟩ }

/-- A host read: a register file read while BUSY is a draw from `[0, 2^64)`, every other read is the
register's value; no state of the engine changes (20_memory.md R89, R93, R94, R97; DESIGN CHOICE, log
entry 14). -/
def busRead (s : State) (r : BusReg) : State :=
  if r.isFile && s.busy then (s.answer (BitVec.ofNat 64 (s.draw (2 ^ 64)))).drawn
  else s.answer (s.readReg r)

/-! ## Writes (R87, R88, R90 to R92, R95, R96) -/

/-- A dropped register-file write (20_memory.md R90 to R92). -/
def State.dropFileWrite (s : State) : State := { s with accerr := true }

/-- A write to CMD: accepted when idle and without an error, else dropped (20_memory.md R88). -/
def State.submit (s : State) (v : BusWord) : State :=
  if s.busy || s.err then { s with cmdovr := true }
  else { s with cmd := v, busy := true, done := false }

/-- A write to W[i] (20_memory.md R90). -/
def State.writeW (s : State) (i : WReg) (v : BusWord) : State :=
  if s.busy then s.dropFileWrite else s.setW i v.toNat

/-- A write to NANN[i]: resize by masking, the tag cleared (20_memory.md R91). -/
def State.writeAnn (s : State) (i : NReg) (v : BusWord) : State :=
  if s.busy then s.dropFileWrite
  else if s.capacity < bitsOf v 0 32 then s.dropFileWrite
  else s.setN i (bitsOf v 0 32) (s.nreg i).val none

/-- A write to NLIMB[i][j]: one limb, masked to the announced length, the tag cleared
(20_memory.md R92). -/
def State.writeLimb (s : State) (i : NReg) (j : Nat) (v : BusWord) : State :=
  if s.busy then s.dropFileWrite
  else if nlimbs s.W (s.nreg i).ann ≤ j then s.dropFileWrite
  else s.setN i (s.nreg i).ann (putLimb s.W (s.nreg i).val j (trunc s.W v.toNat)) none

/-- A write to STATUS: write-1-to-clear of DONE, ERR (with ERRCODE), CMDOVR and ACCERR
(20_memory.md R95). -/
def State.writeStatus (s : State) (v : BusWord) : State :=
  let t := if v.getLsbD 2 then s.ackErr else s
  { t with
    done := t.done && !v.getLsbD 1
    cmdovr := t.cmdovr && !v.getLsbD 3
    accerr := t.accerr && !v.getLsbD 4 }

/-- A write to CTRL: IE, then the soft reset when SRST is written 1 (20_memory.md R96). -/
def State.writeCtrl (s : State) (v : BusWord) : State :=
  let t := { s with ie := v.getLsbD 0 }
  if v.getLsbD 1 then t.engineReset else t

/-- A host write to a register of the window; writes to read-only registers and to reserved offsets
are ignored (20_memory.md R87). -/
def State.writeReg (s : State) (r : BusReg) (v : BusWord) : State :=
  match r with
  | .ctrl => s.writeCtrl v
  | .status => s.writeStatus v
  | .cmd => s.submit v
  | .w i => s.writeW i v
  | .nann i => s.writeAnn i v
  | .nlimb i j => s.writeLimb i j v
  | .id | .config | .errcmd | .cmdcnt | .mstat _ | .minv _ | .mlimb _ _ | .reserved => s

/-- A host write, answered with data 0 (DESIGN CHOICE, log entry 15). -/
def busWrite (s : State) (r : BusReg) (v : BusWord) : State := (s.writeReg r v).answer 0

/-! ## One access (R82, R86) -/

/-- A bus error response: no engine state changes, a read returns 0; the fault log keeps it
(20_memory.md R86; 93_implementation_defined.md I13). -/
def State.refuseAccess (s : State) (x : Access) : State :=
  { s with reply := some ⟨0, true⟩, faultLog := s.faultLog ++ [.bus x] }

/-- One bus access (20_memory.md R82, R86). -/
def busAccess (x : Access) (s : State) : Host.Outcome State Fault Refusal :=
  if x.addr < s.params.base ∨ s.params.base + windowSize ≤ x.addr then
    .fault (.outsideWindow x.addr)
  else if x.size ≠ 8 ∨ (x.addr - s.params.base) % 8 ≠ 0 then .next (s.refuseAccess x)
  else if x.write then .next (busWrite s (locate s.L (x.addr - s.params.base)) x.data)
  else .next (busRead s (locate s.L (x.addr - s.params.base)))

end Sys2Proof.Machine
end

