-- ==== Sys2Proof/Machine/Arith.lean ====
section
/-!
DEFINITION. The exact integer results the modular commands name: powers, inverses, primality and the
Tonelli-Shanks root, in a form that computes (00_scope.md R10; 45_exponentiation.md R321;
46_inverse.md R340; 47_modsqrt.md R360, R363). Sys2Proof/Laws/Arith.lean proves each equal to the
mathematical notion its name says.
-/

namespace Sys2Proof.Machine

/-! ## Powers -/

/-- `b^e mod m` for `e < 2^n`, by the bits of `e`, with `b^0 = 1` (45_exponentiation.md R321). -/
def powBits (b m : Nat) : Nat → Nat → Nat
  | 0, _ => 1 % m
  | n + 1, e =>
    let h := powBits b m n (e / 2)
    if e % 2 = 1 then h * h % m * b % m else h * h % m

/-- `b^e mod m` (45_exponentiation.md R321). -/
def powMod (b e m : Nat) : Nat := powBits b m (bitlen e) e

/-! ## Inverse -/

/-- The extended Euclid loop on remainders `r0, r1` and coefficients `t0, t1` kept in `[0, m)`, with
fuel: ends with the coefficient of the greatest common divisor. -/
def euclid (m : Nat) : Nat → Nat → Nat → Nat → Nat → Nat
  | 0, _, _, t0, _ => t0
  | fuel + 1, r0, r1, t0, t1 =>
    if r1 = 0 then t0
    else euclid m fuel r1 (r0 % r1) t1 ((t0 + (m - r0 / r1 * t1 % m)) % m)

/-- `inv(a, m)`: for `gcd(a, m) = 1`, the unique `r` with `0 <= r < m` and `a*r mod m = 1 mod m`
(00_scope.md R10). -/
def inv (a m : Nat) : Nat := euclid m m m (a % m) 0 (1 % m)

/-! ## Primality -/

/-- No `d' >= d` with `d'^2 <= p` divides `p`, looked for through `fuel` candidates. -/
def noDivisorFrom (p : Nat) : Nat → Nat → Bool
  | 0, _ => true
  | fuel + 1, d => if p < d * d then true else if p % d = 0 then false else noDivisorFrom p fuel (d + 1)

/-- `p` is prime (47_modsqrt.md R360). -/
def isPrime (p : Nat) : Bool := decide (2 ≤ p) && noDivisorFrom p p 2

/-! ## Tonelli-Shanks (47_modsqrt.md R363) -/

/-- The first candidate from `z` up with `z^((p-1)/2) mod p != 1`, through at most `fuel`
increments; 47_modsqrt.md R364 says it is found at `p` at the latest. -/
def nonResidueFrom (p : Nat) : Nat → Nat → Nat
  | 0, z => z
  | fuel + 1, z => if powMod z ((p - 1) / 2) p = 1 then nonResidueFrom p fuel (z + 1) else z

/-- `(Q, S)` with `x * 2^s = Q * 2^S` and `Q` odd, for `0 < x` (47_modsqrt.md R363). -/
def splitTwos : Nat → Nat → Nat → Nat × Nat
  | 0, x, s => (x, s)
  | fuel + 1, x, s => if x % 2 = 0 then splitTwos fuel (x / 2) (s + 1) else (x, s)

/-- The rounds `k = j+1` down to `2` of the iteration, on `(r, t, c)`; the selections by `nb` are
`ctCondCopy` (47_modsqrt.md R363). -/
def tsRounds (p : Nat) : Nat → Nat → Nat → Nat → Nat
  | 0, r, _, _ => r
  | j + 1, r, t, c =>
    if powMod t (2 ^ j) p = 1 then tsRounds p j r t (c * c % p)
    else tsRounds p j (r * c % p) (t * c % p * c % p) (c * c % p)

/-- `TS(x, p)` (47_modsqrt.md R363; PRESUMED in the spec itself, log entry 16): `S - 1` rounds from the
first non-residue candidate. -/
def tonelliShanks (x p : Nat) : Nat :=
  let z := nonResidueFrom p p 2
  let qs := splitTwos p (p - 1) 0
  tsRounds p (qs.2 - 1) (powMod x ((qs.1 + 1) / 2) p) (powMod x qs.1 p) (powMod z qs.1 p)

end Sys2Proof.Machine
end

