-- ==== Sys2Proof/Machine/Exponent.lean ====
section
/-!
DEFINITION. Modular exponentiation, 45_exponentiation.md R320, R321.
-/

namespace Sys2Proof.Machine

/-- EXP: the base is reduced on entry, the exponent is used as it stands; `x^0 = 1`
(45_exponentiation.md R321). -/
def execExp (d a b : NReg) (mk : MReg) (s : State) : Host.Outcome State Fault Refusal :=
  withModulus s mk fun md =>
    finish (s.setResidue d mk md (powMod (s.red a md) (s.nreg b).val md.val))

end Sys2Proof.Machine
end

