-- ==== Sys2Proof/Machine/Inverse.lean ====
section
/-!
DEFINITION. The modular inverse and the coprimality test, 46_inverse.md R340, R341, R345.
-/

namespace Sys2Proof.Machine

/-- MODINV, for odd and even moduli: `inv(x, M)` when `gcd(x, M) = 1`, else a draw from `[0, M)`
(46_inverse.md R340, R341; 93_implementation_defined.md I4). -/
def execModinv (d a : NReg) (mk : MReg) (s : State) : Host.Outcome State Fault Refusal :=
  withModulus s mk fun md =>
    if Nat.gcd (s.red a md) md.val = 1 then
      finish (s.setResidue d mk md (inv (s.red a md) md.val))
    else finish (s.drawResidue d mk md)

/-- COPRIME: only the Choice `gcd(X, Y) = 1`, with `gcd(0, 0) = 0` (46_inverse.md R345). -/
def execCoprime (d : WReg) (a b : NReg) (s : State) : Host.Outcome State Fault Refusal :=
  finish (s.setW d (ctEq (Nat.gcd (s.nreg a).val (s.nreg b).val) 1))

end Sys2Proof.Machine
end

