-- ==== Sys2Proof/Machine/Limb.lean ====
section
/-!
DEFINITION. The constant-time limb primitives, 40_limb_primitives.md R170 to R186. Each meaning is
the completion step of its command (60_exceptions.md R400): operands first, then the writes in the
order of the rule (70_reset_and_hazards.md R460).
-/

namespace Sys2Proof.Machine

/-! ## Word commands -/

/-- CTEQ (40_limb_primitives.md R170). -/
def execCteq (d a b : WReg) (s : State) : Host.Outcome State Fault Refusal :=
  finish (s.setW d (ctEq (s.wreg a) (s.wreg b)))

/-- CTGT (40_limb_primitives.md R171). -/
def execCtgt (d a b : WReg) (s : State) : Host.Outcome State Fault Refusal :=
  finish (s.setW d (ctGt (s.wreg a) (s.wreg b)))

/-- CTIFELSE (40_limb_primitives.md R172). -/
def execCtifelse (d a b c : WReg) (s : State) : Host.Outcome State Fault Refusal :=
  finish (s.setW d (ctIfElse s.W (s.wreg c) (s.wreg a) (s.wreg b)))

/-- DIV1: the quotient and remainder when `dv != 0` and `hi < dv`, else two draws from `[0, 2^W)`
(40_limb_primitives.md R173; 93_implementation_defined.md I2). -/
def execDiv1 (d e a b c : WReg) (s : State) : Host.Outcome State Fault Refusal :=
  if s.wreg c ≠ 0 ∧ s.wreg a < s.wreg c then
    finish ((s.setW d (divWords s.W (s.wreg a) (s.wreg b) (s.wreg c)).1).setW e
      (divWords s.W (s.wreg a) (s.wreg b) (s.wreg c)).2)
  else
    finish ((s.setW d (s.draw (2 ^ s.W))).setW e (s.drawn.draw (2 ^ s.W))).drawn.drawn

/-! ## Limb-vector arithmetic -/

/-- ADDVV (40_limb_primitives.md R176). -/
def execAddvv (d : NReg) (e : WReg) (a b : NReg) (k : Nat) (s : State) :
    Host.Outcome State Fault Refusal :=
  vectorCommand s d e k (addVV s.W k (s.vec a k) (s.vec b k))

/-- SUBVV (40_limb_primitives.md R177). -/
def execSubvv (d : NReg) (e : WReg) (a b : NReg) (k : Nat) (s : State) :
    Host.Outcome State Fault Refusal :=
  vectorCommand s d e k (subVV s.W k (s.vec a k) (s.vec b k))

/-- SHLVU (40_limb_primitives.md R178). -/
def execShlvu (d : NReg) (e : WReg) (a : NReg) (k amount : Nat) (s : State) :
    Host.Outcome State Fault Refusal :=
  vectorShift s d e k amount (shlVU s.W k (s.vec a k) amount)

/-- SHRVU (40_limb_primitives.md R179). -/
def execShrvu (d : NReg) (e : WReg) (a : NReg) (k amount : Nat) (s : State) :
    Host.Outcome State Fault Refusal :=
  vectorShift s d e k amount (shrVU s.W (s.vec a k) amount)

/-- ADDMULVVW (40_limb_primitives.md R180). -/
def execAddmulvvw (d : NReg) (e : WReg) (a : NReg) (b : WReg) (k : Nat) (s : State) :
    Host.Outcome State Fault Refusal :=
  vectorCommand s d e k (addMulVVW s.W k (s.vec d k) (s.vec a k) (s.wreg b))

/-- MULSUBVVW (40_limb_primitives.md R181). -/
def execMulsubvvw (d : NReg) (e : WReg) (a : NReg) (b : WReg) (k : Nat) (s : State) :
    Host.Outcome State Fault Refusal :=
  vectorCommand s d e k (mulSubVVW s.W k (s.vec d k) (s.vec a k) (s.wreg b))

/-- ADDVW (40_limb_primitives.md R182). -/
def execAddvw (d : NReg) (e : WReg) (a : NReg) (b : WReg) (k : Nat) (s : State) :
    Host.Outcome State Fault Refusal :=
  vectorCommand s d e k (addVW s.W k (s.vec a k) (s.wreg b))

/-- SUBVW (40_limb_primitives.md R183). -/
def execSubvw (d : NReg) (e : WReg) (a : NReg) (b : WReg) (k : Nat) (s : State) :
    Host.Outcome State Fault Refusal :=
  vectorCommand s d e k (subVW s.W k (s.vec a k) (s.wreg b))

/-! ## Conditional copy and swap -/

/-- CTCONDCOPY: the announced length is the longer one whatever the Choice
(40_limb_primitives.md R185). -/
def execCtcondcopy (d a : NReg) (c : WReg) (s : State) : Host.Outcome State Fault Refusal :=
  let len := max (s.nreg d).ann (s.nreg a).ann
  finish (s.setN d len
    (sel s.W (s.wreg c) (s.nreg a).val (s.nreg d).val (nlimbs s.W len)) none)

/-- CTCONDSWAP: `n[d]`, then `n[e]`, both from the values before the command
(40_limb_primitives.md R186). -/
def execCtcondswap (d e : NReg) (c : WReg) (s : State) : Host.Outcome State Fault Refusal :=
  let len := max (s.nreg d).ann (s.nreg e).ann
  let t := limbMask s.W (s.wreg c) (nlimbs s.W len) &&& ((s.nreg d).val ^^^ (s.nreg e).val)
  finish ((s.setN d len ((s.nreg d).val ^^^ t) none).setN e len ((s.nreg e).val ^^^ t) none)

end Sys2Proof.Machine
end

