-- ==== Sys2Proof/Machine/Modular.lean ====
section
/-!
DEFINITION. Modular addition, subtraction, negation and multiplication, 43_modular_ops.md R280 to
R284.
-/

namespace Sys2Proof.Machine

/-- MODADD (43_modular_ops.md R281). -/
def execModadd (d a b : NReg) (mk : MReg) (s : State) : Host.Outcome State Fault Refusal :=
  withModulus s mk fun md =>
    finish (s.setResidue d mk md ((s.red a md + s.red b md) % md.val))

/-- MODSUB: the least non-negative remainder of the difference (43_modular_ops.md R282). -/
def execModsub (d a b : NReg) (mk : MReg) (s : State) : Host.Outcome State Fault Refusal :=
  withModulus s mk fun md =>
    finish (s.setResidue d mk md
      (((s.red a md : Int) - (s.red b md : Int)) % (md.val : Int)).toNat)

/-- MODNEG (43_modular_ops.md R283). -/
def execModneg (d a : NReg) (mk : MReg) (s : State) : Host.Outcome State Fault Refusal :=
  withModulus s mk fun md =>
    finish (s.setResidue d mk md ((0 - (s.red a md : Int)) % (md.val : Int)).toNat)

/-- MODMUL, for odd and even moduli (43_modular_ops.md R284). -/
def execModmul (d a b : NReg) (mk : MReg) (s : State) : Host.Outcome State Fault Refusal :=
  withModulus s mk fun md =>
    finish (s.setResidue d mk md (s.red a md * s.red b md % md.val))

end Sys2Proof.Machine
end

