-- ==== Sys2Proof/Machine/Montgomery.lean ====
section
/-!
DEFINITION. The Montgomery product and the map into Montgomery form, 44_montgomery.md R301, R303.
-/

namespace Sys2Proof.Machine

/-- MONTMUL: `x*y*inv(Rm, M) mod M`; MODULUS_EVEN for an even modulus (44_montgomery.md R301). -/
def execMontmul (d a b : NReg) (mk : MReg) (s : State) : Host.Outcome State Fault Refusal :=
  withOddModulus s mk fun md =>
    finish (s.setResidue d mk md
      (s.red a md * s.red b md * inv (md.radix s.W) md.val % md.val))

/-- MONTREP: `x*Rm mod M`, for odd and even moduli (44_montgomery.md R303). -/
def execMontrep (d a : NReg) (mk : MReg) (s : State) : Host.Outcome State Fault Refusal :=
  withModulus s mk fun md =>
    finish (s.setResidue d mk md (s.red a md * md.radix s.W % md.val))

end Sys2Proof.Machine
end

