-- ==== Sys2Proof/Machine/NatArith.lean ====
section
/-!
DEFINITION. Nat arithmetic and register access, 41_nat_arithmetic.md R200 to R216.
-/

namespace Sys2Proof.Machine

/-! ## Register access -/

/-- NOP: nothing but the completion (41_nat_arithmetic.md R200; 30_encoding.md R131). -/
def execNop (s : State) : Host.Outcome State Fault Refusal := finish s

/-- WMOVI: the immediate, zero-extended (41_nat_arithmetic.md R201). -/
def execWmovi (d : WReg) (imm : Nat) (s : State) : Host.Outcome State Fault Refusal :=
  finish (s.setW d imm)

/-- NSETW: announced length `W` (41_nat_arithmetic.md R202). -/
def execNsetw (d : NReg) (a : WReg) (s : State) : Host.Outcome State Fault Refusal :=
  finish (s.setN d s.W (s.wreg a) none)

/-- NGETW: LENGTH when `j >= L` (41_nat_arithmetic.md R203). -/
def execNgetw (d : WReg) (a : NReg) (j : Nat) (s : State) : Host.Outcome State Fault Refusal :=
  if s.L ≤ j then abort s .length else finish (s.setW d (s.limb a j))

/-- NPUTW: LENGTH when `j >= nlimbs(n[d].ann)`; the announced length stays
(41_nat_arithmetic.md R204). -/
def execNputw (d : NReg) (a : WReg) (j : Nat) (s : State) : Host.Outcome State Fault Refusal :=
  if nlimbs s.W (s.nreg d).ann ≤ j then abort s .length
  else finish (s.setN d (s.nreg d).ann (putLimb s.W (s.nreg d).val j (s.wreg a)) none)

/-- NCOPY: announced length, value and tag (41_nat_arithmetic.md R205). -/
def execNcopy (d a : NReg) (s : State) : Host.Outcome State Fault Refusal :=
  finish (s.setN d (s.nreg a).ann (s.nreg a).val (s.nreg a).tag)

/-! ## Resize, add, subtract, multiply, shift -/

/-- NRESIZE: no default cap, so a negative one is a LENGTH error (41_nat_arithmetic.md R206). -/
def execNresize (d a : NReg) (cap : Int) (s : State) : Host.Outcome State Fault Refusal :=
  if cap < 0 then abort s .length
  else cappedCommand s d cap.toNat fun c => (s.nreg a).val % 2 ^ c

/-- NADD: default cap `max(ann) + 1` (41_nat_arithmetic.md R207). -/
def execNadd (d a b : NReg) (cap : Int) (s : State) : Host.Outcome State Fault Refusal :=
  cappedCommand s d (capOr cap (max (s.nreg a).ann (s.nreg b).ann + 1)) fun c =>
    ((s.nreg a).val + (s.nreg b).val) % 2 ^ c

/-- NSUB: default cap `max(ann)`; a negative difference wraps (41_nat_arithmetic.md R208). -/
def execNsub (d a b : NReg) (cap : Int) (s : State) : Host.Outcome State Fault Refusal :=
  cappedCommand s d (capOr cap (max (s.nreg a).ann (s.nreg b).ann)) fun c =>
    (((s.nreg a).val : Int) - ((s.nreg b).val : Int)) % 2 ^ c |>.toNat

/-- NMUL: default cap the sum of the announced lengths (41_nat_arithmetic.md R209). -/
def execNmul (d a b : NReg) (cap : Int) (s : State) : Host.Outcome State Fault Refusal :=
  cappedCommand s d (capOr cap ((s.nreg a).ann + (s.nreg b).ann)) fun c =>
    (s.nreg a).val * (s.nreg b).val % 2 ^ c

/-- NLSH: default cap `ann + s` (41_nat_arithmetic.md R210). -/
def execNlsh (d a : NReg) (b : WReg) (cap : Int) (s : State) : Host.Outcome State Fault Refusal :=
  cappedCommand s d (capOr cap ((s.nreg a).ann + s.wreg b)) fun c =>
    shlTrunc (s.nreg a).val (s.wreg b) c

/-- NRSH: default cap `max(ann - s, 0)` (41_nat_arithmetic.md R211). -/
def execNrsh (d a : NReg) (b : WReg) (cap : Int) (s : State) : Host.Outcome State Fault Refusal :=
  cappedCommand s d (capOr cap ((s.nreg a).ann - s.wreg b)) fun c =>
    shrNat (s.nreg a).val (s.wreg b) % 2 ^ c

/-! ## Comparison -/

/-- NCMP: `gt`, `eq` and `lt` to `w[d]`, `w[e]` and `w[c]`, in this order
(41_nat_arithmetic.md R212). -/
def execNcmp (d e : WReg) (a b : NReg) (c : WReg) (s : State) :
    Host.Outcome State Fault Refusal :=
  let x := (s.nreg a).val
  let y := (s.nreg b).val
  finish (((s.setW d (ctGt x y)).setW e (ctEq x y)).setW c (ctGt y x))

/-- NEQ (41_nat_arithmetic.md R213). -/
def execNeq (d : WReg) (a b : NReg) (s : State) : Host.Outcome State Fault Refusal :=
  finish (s.setW d (ctEq (s.nreg a).val (s.nreg b).val))

/-- NEQZERO (41_nat_arithmetic.md R214). -/
def execNeqzero (d : WReg) (a : NReg) (s : State) : Host.Outcome State Fault Refusal :=
  finish (s.setW d (ctEq (s.nreg a).val 0))

end Sys2Proof.Machine
end

