-- ==== Sys2Proof/Machine/Reduction.lean ====
section
/-!
DEFINITION. Modulus construction and the reduction engine's commands, 42_modulus_reduction.md R240 to
R247.
-/

namespace Sys2Proof.Machine

/-- `m0inv = (-inv(v mod 2^W, 2^W)) mod 2^W` for an odd `v` (10_state.md R41;
42_modulus_reduction.md R240). -/
def m0invOf (W v : Nat) : Nat := (2 ^ W - inv (v % 2 ^ W) (2 ^ W)) % 2 ^ W

/-- The modulus register made from a value `v >= 1`, with `m0inv` given
(42_modulus_reduction.md R240). -/
def modulusOf (W v m0inv : Nat) : ModReg where
  valid   := true
  val     := v
  size    := nlimbs W (bitlen v)
  leading := nlimbs W (bitlen v) * W - bitlen v
  m0inv   := m0inv
  even    := decide (v % 2 = 0)

/-- MODSET: EMPTY_MODULUS for the value 0; for an even value `m0inv` is a draw from `[0, 2^W)`
(42_modulus_reduction.md R240; 93_implementation_defined.md I1). -/
def execModset (a : NReg) (mk : MReg) (s : State) : Host.Outcome State Fault Refusal :=
  let v := (s.nreg a).val
  if v = 0 then abort s .emptyModulus
  else if v % 2 = 0 then finish (s.setM mk (modulusOf s.W v (s.draw (2 ^ s.W)))).drawn
  else finish (s.setM mk (modulusOf s.W v (m0invOf s.W v)))

/-- SHIFTADDIN: `n[d]` is read reduced, then written, then the quotient word
(42_modulus_reduction.md R243). -/
def execShiftaddin (d : NReg) (e a : WReg) (mk : MReg) (s : State) :
    Host.Outcome State Fault Refusal :=
  withModulus s mk fun md =>
    let t := s.red d md * 2 ^ s.W + s.wreg a
    finish ((s.setResidue d mk md (t % md.val)).setW e (t / md.val))

/-- MOD (42_modulus_reduction.md R245). -/
def execMod (d a : NReg) (mk : MReg) (s : State) : Host.Outcome State Fault Refusal :=
  withModulus s mk fun md => finish (s.setResidue d mk md (s.red a md))

/-- DIV: default cap `max(ann - BL + 2, 0)`; the tag is cleared (42_modulus_reduction.md R247). -/
def execDiv (d a : NReg) (mk : MReg) (cap : Int) (s : State) : Host.Outcome State Fault Refusal :=
  withModulus s mk fun md =>
    cappedCommand s d (capOr cap ((s.nreg a).ann + 2 - bitlen md.val)) fun c =>
      (s.nreg a).val / md.val % 2 ^ c

end Sys2Proof.Machine
end

