-- ==== Sys2Proof/Machine/Sqrt.lean ====
section
/-!
DEFINITION. The modular square root, 47_modsqrt.md R360 to R363.
-/

namespace Sys2Proof.Machine

/-- MODSQRT: 0 for `p = 1`; the formula for every `p` that is 3 mod 4; the Tonelli-Shanks output for
a square modulo a prime that is 1 mod 4; else a draw from `[0, p)` (47_modsqrt.md R360, R361;
90_conflicts.md C5; 93_implementation_defined.md I5). -/
def execModsqrt (d a : NReg) (mk : MReg) (s : State) : Host.Outcome State Fault Refusal :=
  withOddModulus s mk fun md =>
    let p := md.val
    let x := s.red a md
    if p = 1 then finish (s.setResidue d mk md 0)
    else if p % 4 = 3 then finish (s.setResidue d mk md (powMod x ((p + 1) / 4) p))
    else if isPrime p ∧ (x = 0 ∨ powMod x ((p - 1) / 2) p = 1) then
      finish (s.setResidue d mk md (tonelliShanks x p))
    else finish (s.drawResidue d mk md)

end Sys2Proof.Machine
end

