-- ==== Sys2Proof/Machine/Dispatch.lean ====
section
/-!
DEFINITION. One arm per command of 30_encoding.md R128: the completion step of that command
(60_exceptions.md R400).
-/

namespace Sys2Proof.Machine

def exec (i : Instr) (s : State) : Host.Outcome State Fault Refusal :=
  match i with
  | .nop => Sys2Proof.Machine.execNop s
  | .wmovi d imm => Sys2Proof.Machine.execWmovi d imm s
  | .nsetw d a => Sys2Proof.Machine.execNsetw d a s
  | .ngetw d a j => Sys2Proof.Machine.execNgetw d a j s
  | .nputw d a j => Sys2Proof.Machine.execNputw d a j s
  | .ncopy d a => Sys2Proof.Machine.execNcopy d a s
  | .cteq d a b => Sys2Proof.Machine.execCteq d a b s
  | .ctgt d a b => Sys2Proof.Machine.execCtgt d a b s
  | .ctifelse d a b c => Sys2Proof.Machine.execCtifelse d a b c s
  | .div1 d e a b c => Sys2Proof.Machine.execDiv1 d e a b c s
  | .addvv d e a b k => Sys2Proof.Machine.execAddvv d e a b k s
  | .subvv d e a b k => Sys2Proof.Machine.execSubvv d e a b k s
  | .shlvu d e a k amount => Sys2Proof.Machine.execShlvu d e a k amount s
  | .shrvu d e a k amount => Sys2Proof.Machine.execShrvu d e a k amount s
  | .addmulvvw d e a b k => Sys2Proof.Machine.execAddmulvvw d e a b k s
  | .mulsubvvw d e a b k => Sys2Proof.Machine.execMulsubvvw d e a b k s
  | .addvw d e a b k => Sys2Proof.Machine.execAddvw d e a b k s
  | .subvw d e a b k => Sys2Proof.Machine.execSubvw d e a b k s
  | .ctcondcopy d a c => Sys2Proof.Machine.execCtcondcopy d a c s
  | .ctcondswap d e c => Sys2Proof.Machine.execCtcondswap d e c s
  | .nresize d a cap => Sys2Proof.Machine.execNresize d a cap s
  | .nadd d a b cap => Sys2Proof.Machine.execNadd d a b cap s
  | .nsub d a b cap => Sys2Proof.Machine.execNsub d a b cap s
  | .nmul d a b cap => Sys2Proof.Machine.execNmul d a b cap s
  | .nlsh d a b cap => Sys2Proof.Machine.execNlsh d a b cap s
  | .nrsh d a b cap => Sys2Proof.Machine.execNrsh d a b cap s
  | .ncmp d e a b c => Sys2Proof.Machine.execNcmp d e a b c s
  | .neq d a b => Sys2Proof.Machine.execNeq d a b s
  | .neqzero d a => Sys2Proof.Machine.execNeqzero d a s
  | .modset a mk => Sys2Proof.Machine.execModset a mk s
  | .shiftaddin d e a mk => Sys2Proof.Machine.execShiftaddin d e a mk s
  | .mod d a mk => Sys2Proof.Machine.execMod d a mk s
  | .div d a mk cap => Sys2Proof.Machine.execDiv d a mk cap s
  | .modadd d a b mk => Sys2Proof.Machine.execModadd d a b mk s
  | .modsub d a b mk => Sys2Proof.Machine.execModsub d a b mk s
  | .modneg d a mk => Sys2Proof.Machine.execModneg d a mk s
  | .modmul d a b mk => Sys2Proof.Machine.execModmul d a b mk s
  | .montmul d a b mk => Sys2Proof.Machine.execMontmul d a b mk s
  | .montrep d a mk => Sys2Proof.Machine.execMontrep d a mk s
  | .exp d a b mk => Sys2Proof.Machine.execExp d a b mk s
  | .modinv d a mk => Sys2Proof.Machine.execModinv d a mk s
  | .coprime d a b => Sys2Proof.Machine.execCoprime d a b s
  | .modsqrt d a mk => Sys2Proof.Machine.execModsqrt d a mk s

end Sys2Proof.Machine
end

