-- ==== Sys2Proof/Machine/Sequencer.lean ====
section
/-!
DEFINITION. The sequencer: what a completion step does with the latched command word, and what each
event of the run does (10_state.md R30; 60_exceptions.md R400; 20_memory.md R98).
-/

namespace Sys2Proof.Machine

/-- The error code of a word that is no command (60_exceptions.md R402). -/
def decodeErrCode : DecodeError → ErrCode
  | .illegalOpcode => .illegalOpcode
  | .reservedField => .reservedField

/-- The completion step: decode CMD, then run the command or report the decode error
(60_exceptions.md R400; 30_encoding.md R132). -/
def completion (s : State) : Host.Outcome State Fault Refusal :=
  match decode s.cmd with
  | .command i => exec i s
  | .illegal e => abort s (decodeErrCode e)

/-- The engine's step: a completion while BUSY is 1; an idle engine does nothing
(10_state.md R30; 60_exceptions.md R418). -/
def engineStep (s : State) : Host.Outcome State Fault Refusal :=
  if s.busy then completion s else .next s

/-- What one event of the run does (20_memory.md R98; 70_reset_and_hazards.md R450). -/
def runEvent (ev : Event) (s : State) : Host.Outcome State Fault Refusal :=
  match ev with
  | .access x => busAccess x s
  | .engine => engineStep s
  | .reset => .next s.engineReset

/-- The state in which the word `v` is the accepted command and the engine moves next: what an
accepted write of `v` to CMD leaves (20_memory.md R88), with the engine's step before every event
still to come. -/
def State.withCommand (s : State) (v : BusWord) : State :=
  { s with cmd := v, busy := true, done := false, script := .engine :: s.script }

end Sys2Proof.Machine
end

