-- ==== Sys2Proof/Machine/Step.lean ====
section
/-!
DEFINITION. One step of the run: the next event of the script, or, when the script is empty, the
engine's own step, so that every accepted command completes (20_memory.md R98; 60_exceptions.md
R400).
-/

namespace Sys2Proof.Machine

/-- One step of the whole system. -/
def step (s : State) : Host.Outcome State Fault Refusal :=
  match s.script with
  | [] => engineStep s
  | ev :: rest => runEvent ev { s with script := rest }

/-- The state whose very next step runs the command word `w`. The engine fetches nothing
(10_state.md R47): a command reaches it by an accepted write to CMD, whose result this is (log
entry 2). -/
def State.withFetchWord (s : State) (nbits w : Nat) : State :=
  s.withCommand (BitVec.ofNat 64 (w % 2 ^ nbits))

end Sys2Proof.Machine
end

