-- ==== Sys2Proof/Machine/Datapath.lean ====
section
/-!
DEFINITION. The constant-time datapaths the spec gives beside the results of its commands. No step
calls them: a command's result is its rule's value whatever the datapath
(93_implementation_defined.md I9; DEDUCED, log entry 8), and the obligations state that each datapath computes it. Every
selection between two values is by mask (00_scope.md R14); every loop runs a count that depends on
public lengths only. `nM` is the number of limbs of the modulus `M`, `t` its `leading` count.
-/

namespace Sys2Proof.Machine.Datapath

/-! ## Single-word division (R174) and `divDouble` (R344) -/

/-- A shift-and-subtract loop on `(quotient, remainder)`: one quotient bit per iteration, taking the
low `i` bits of `lo` from the top, each subtract selected by a mask of `width` bits
(40_limb_primitives.md R174). The loop body is PRESUMED, log entry 11. -/
def divLoop (width lo dv : Nat) : Nat → Nat × Nat → Nat × Nat
  | 0, qr => qr
  | i + 1, qr =>
    let r := 2 * qr.2 + lo / 2 ^ i % 2
    let fits := 1 - ctGt dv r
    divLoop width lo dv i (2 * qr.1 + fits, ctIfElse width fits (r - dv) r)

/-- `div(hi, lo, d)`: exactly `W` iterations (40_limb_primitives.md R174). -/
def div (W hi lo dv : Nat) : Nat × Nat := divLoop (W + 1) lo dv W (0, hi)

/-- `divDouble`: a restoring division of a `2*nM`-limb value, one quotient bit per step
(46_inverse.md R344). -/
def divDouble (W nM v x : Nat) : Nat := (divLoop (2 * nM * W + 1) v x (2 * nM * W) (0, 0)).1

/-! ## Newton iteration for `m0inv` (R241) -/

/-- `y <- y*(2 - n0*y)`, the given number of times, from `y` (42_modulus_reduction.md R241). -/
def newton (W n0 : Nat) : Nat → Nat → Nat
  | 0, y => y
  | i + 1, y => newton W n0 i (y * (2 + (2 ^ W - n0 * y % 2 ^ W)) % 2 ^ W)

/-- `m0inv` by five Newton iterations from `y = n0`, then the negation
(42_modulus_reduction.md R241). -/
def m0inv (W v : Nat) : Nat := (2 ^ W - newton W (v % 2 ^ W) 5 (v % 2 ^ W)) % 2 ^ W

/-! ## The atomic reduction step (R244, R249 to R251) -/

/-- The quotient estimate for `nM >= 2` (42_modulus_reduction.md R249). -/
def stepEstimate (W nM t M z x : Nat) : Nat :=
  let a := (z * 2 ^ W + x) * 2 ^ t / 2 ^ ((nM - 1) * W)
  let a1 := a / 2 ^ W
  let a0 := a % 2 ^ W
  let b0 := M * 2 ^ t / 2 ^ ((nM - 1) * W)
  let rawQ := (div W a1 a0 b0).1
  ctIfElse W (ctEq a1 b0) (2 ^ W - 1) (ctIfElse W (ctEq rawQ 0) 0 (rawQ - 1))

/-- The correction by at most one, on the whole remainder: the new `z` and `q`
(42_modulus_reduction.md R250; 90_conflicts.md C3). -/
def stepCorrect (W nM M z x q : Nat) : Nat × Nat :=
  let hi := limbOf W z (nM - 1)
  let zc := mulSubVVW W nM ((z * 2 ^ W + x) % 2 ^ (nM * W)) M q
  let under := ctGt zc.2 hi
  let above := (1 - under) * (1 - ctGt M ((hi - zc.2) * 2 ^ (nM * W) + zc.1))
  (sel W under (addVV W nM zc.1 M).1 (sel W above (subVV W nM zc.1 M).1 zc.1 nM) nM,
    q - under + above)

/-- `shiftAddIn(z, x, m)`: the new `z` and the quotient word (42_modulus_reduction.md R244, R249 to
R251). -/
def shiftAddIn (W nM t M z x : Nat) : Nat × Nat :=
  if nM = 1 then ((div W z x M).2, (div W z x M).1)
  else stepCorrect W nM M z x (stepEstimate W nM t M z x)

/-! ## Mod and Div (R246, R248) -/

/-- One step per remaining limb of `X`, from the most significant down, on the residue and the
quotient so far (42_modulus_reduction.md R246, R248). -/
def reduceLoop (W nM t M X : Nat) : Nat → Nat × Nat → Nat × Nat
  | 0, zq => zq
  | r + 1, zq =>
    let st := shiftAddIn W nM t M zq.1 (limbOf W X r)
    reduceLoop W nM t M X r (st.1, zq.2 * 2 ^ W + st.2)

/-- `Mod` and `Div` of a value of announced length `ann`: the top `min(xl, nM - 1)` limbs are
injected, the rest go through the step; the residue and the quotient (42_modulus_reduction.md R246,
R248). -/
def divMod (W nM t M ann X : Nat) : Nat × Nat :=
  let xl := nlimbs W ann
  let rest := xl - min xl (nM - 1)
  reduceLoop W nM t M X rest (X / 2 ^ (rest * W), 0)

/-! ## Modular add, subtract, negate, multiply (R285 to R288) -/

/-- `MODADD` on reduced operands (43_modular_ops.md R285; 90_conflicts.md C2). -/
def modAdd (W nM M x y : Nat) : Nat :=
  let s := addVV W nM x y
  let t := subVV W nM s.1 M
  sel W (ctEq s.2 t.2) t.1 s.1 nM

/-- `MODSUB` on reduced operands (43_modular_ops.md R286). -/
def modSub (W nM M x y : Nat) : Nat :=
  let d := subVV W nM x y
  sel W d.2 (addVV W nM d.1 M).1 d.1 nM

/-- `MODNEG` on a reduced operand (43_modular_ops.md R287). -/
def modNeg (W nM M x : Nat) : Nat := modSub W nM M 0 x

/-- The schoolbook product, one limb of `y` at a time into a zeroed buffer, through the low `i` limbs
of `y` (41_nat_arithmetic.md R219). -/
def schoolbook (W x y : Nat) : Nat → Nat
  | 0 => 0
  | i + 1 => schoolbook W x y i + x * limbOf W y i * 2 ^ (i * W)

/-- `MODMUL` on reduced operands: the `2*nM`-limb product, then the `Mod` iteration
(43_modular_ops.md R288). -/
def modMul (W nM t M x y : Nat) : Nat :=
  (divMod W nM t M (2 * nM * W) (schoolbook W x y nM)).1

/-! ## CIOS Montgomery product (R300, R302) and Montgomery form (R304) -/

/-- The accumulator after the first `i` limbs of `a` (44_montgomery.md R300). -/
def montLoop (W M m0 a b : Nat) : Nat → Nat
  | 0 => 0
  | i + 1 =>
    let u := montLoop W M m0 a b i
    let f := (u % 2 ^ W + limbOf W a i * (b % 2 ^ W)) * m0 % 2 ^ W
    (u + limbOf W a i * b + f * M) / 2 ^ W

/-- The final select: the low limbs stay exactly when `carry XOR borrow = 1` (44_montgomery.md R302;
90_conflicts.md C6). -/
def montSelect (W nM M u : Nat) : Nat :=
  let c := u / 2 ^ (nM * W)
  let ul := u % 2 ^ (nM * W)
  let tb := subVV W nM ul M
  sel W (c ^^^ tb.2) ul tb.1 nM

/-- `mont(a, b)` (44_montgomery.md R300, R302). -/
def mont (W nM M m0 a b : Nat) : Nat := montSelect W nM M (montLoop W M m0 a b nM)

/-- `shiftAddIn(z, 0, m)`, the given number of times (44_montgomery.md R304). -/
def shiftZeros (W nM t M : Nat) : Nat → Nat → Nat
  | 0, z => z
  | i + 1, z => shiftZeros W nM t M i (shiftAddIn W nM t M z 0).1

/-- `MONTREP` on a reduced operand: exactly `size` steps (44_montgomery.md R304). -/
def montRep (W nM t M x : Nat) : Nat := shiftZeros W nM t M nM x

/-! ## Exponentiation (R322, R323) -/

/-- The window table entry `x^i * R` (45_exponentiation.md R322). -/
def expTable (W nM M m0 xR : Nat) : Nat → Nat
  | 0 => 2 ^ (W * nM) % M
  | 1 => xR
  | i + 2 => mont W nM M m0 (expTable W nM M m0 xR (i + 1)) xR

/-- The constant-time lookup: every entry from number `i` on is read under the mask of `ctEq(v, i)`
(45_exponentiation.md R322). -/
def lookup (W nM v : Nat) : List Nat → Nat → Nat → Nat
  | [], _, e => e
  | entry :: rest, i, e => lookup W nM v rest (i + 1) (sel W (ctEq v i) entry e nM)

/-- The windows `j` down to `0` of the exponent on the accumulator: four squarings, the lookup, and a
product kept only for a window that is not 0 (45_exponentiation.md R322). -/
def expWindows (W nM M m0 Y : Nat) (table : List Nat) : Nat → Nat → Nat
  | 0, acc => acc
  | j + 1, acc =>
    let v := Y / 2 ^ (4 * j) % 16
    let a1 := mont W nM M m0 acc acc
    let a2 := mont W nM M m0 a1 a1
    let a3 := mont W nM M m0 a2 a2
    let a4 := mont W nM M m0 a3 a3
    let p := mont W nM M m0 a4 (lookup W nM v table 0 0)
    expWindows W nM M m0 Y table j (sel W (1 - ctEq v 0) p a4 nM)

/-- `expOdd` on a reduced base, for an exponent of `ny` limbs (45_exponentiation.md R322). -/
def expOdd (W nM M m0 ny x Y : Nat) : Nat :=
  let xR := x * 2 ^ (W * nM) % M
  let table := (List.range 16).map (expTable W nM M m0 xR)
  mont W nM M m0 (expWindows W nM M m0 Y table (ny * W / 4) (2 ^ (W * nM) % M)) 1

/-- The bits `j` down to `0` of the exponent (45_exponentiation.md R323). -/
def expBits (W nM M x Y : Nat) : Nat → Nat → Nat
  | 0, acc => acc
  | j + 1, acc =>
    let sq := acc * acc % M
    expBits W nM M x Y j (sel W (Y / 2 ^ j % 2) (sq * x % M) sq nM)

/-- `expEven` on a reduced base, for an exponent of `ny` limbs (45_exponentiation.md R323). -/
def expEven (W nM M ny x Y : Nat) : Nat := expBits W nM M x Y (ny * W) (1 % M)

/-! ## Binary extended GCD (R342, R343) and coprimality (R347) -/

/-- The values of the binary extended GCD (46_inverse.md R342). -/
structure Gcd where
  a : Nat
  u : Nat
  b : Nat
  v : Nat
deriving DecidableEq, Repr

/-- One iteration (46_inverse.md R342). -/
def gcdStep (W nM M : Nat) (g : Gcd) : Gcd :=
  let odd := g.a % 2
  let swap := odd * ctGt g.b g.a
  let a := sel W swap g.b g.a nM
  let b := sel W swap g.a g.b nM
  let u := sel W swap g.v g.u nM
  let v := sel W swap g.u g.v nM
  let a' := sel W odd (a - b) a nM
  let u' := sel W odd (modSub W nM M u v) u nM
  ⟨a' / 2, u' / 2 + u' % 2 * ((M + 1) / 2), b, v⟩

/-- The iterations (46_inverse.md R342). -/
def gcdLoop (W nM M : Nat) : Nat → Gcd → Gcd
  | 0, g => g
  | i + 1, g => gcdLoop W nM M i (gcdStep W nM M g)

/-- The inverse modulo an odd modulus: `2*W*nM - 1` iterations, the result in `v`
(46_inverse.md R342; 90_conflicts.md C10). -/
def modInvOdd (W nM M x : Nat) : Nat :=
  (gcdLoop W nM M (2 * W * nM - 1) ⟨x, 1 % M, M, 0⟩).v

/-- The inverse modulo an even modulus of an odd `x`, with `x` as the odd modulus of the first step;
for `x = 1` the quotient is -1, PRESUMED without a division (46_inverse.md R343; log entry 11). -/
def modInvEven (W nM M x : Nat) : Nat :=
  let A := modInvOdd W (nlimbs W (bitlen x)) x (M % x)
  if A * M = 0 then 1 % M
  else (M - divDouble W nM (A * M - 1) x % M) % M

/-- One iteration of the binary GCD without `u` and `v` (46_inverse.md R347). -/
def coprimeStep (W t : Nat) (ab : Nat × Nat) : Nat × Nat :=
  let odd := ab.1 % 2
  let swap := odd * ctGt ab.2 ab.1
  let a := sel W swap ab.2 ab.1 t
  let b := sel W swap ab.1 ab.2 t
  (sel W odd (a - b) a t / 2, b)

/-- The iterations (46_inverse.md R347). -/
def coprimeLoop (W t : Nat) : Nat → Nat × Nat → Nat × Nat
  | 0, ab => ab
  | i + 1, ab => coprimeLoop W t i (coprimeStep W t ab)

/-- `COPRIME` on values of at most `t` limbs: a swap that puts an odd value in `b` when one exists,
`2*W*t - 1` iterations, and `b = 1` AND not both even (46_inverse.md R347). -/
def coprime (W t X Y : Nat) : Nat :=
  let swap := 1 - Y % 2
  let ab := coprimeLoop W t (2 * W * t - 1) (sel W swap Y X t, sel W swap X Y t)
  ctEq ab.2 1 * (1 - (1 - X % 2) * (1 - Y % 2))

/-! ## Comparison (R218) -/

/-- The scan of limbs `j-1` down to `0` on the states "equal so far" and "greater than"
(41_nat_arithmetic.md R218). -/
def cmpScan (W x y : Nat) : Nat → Nat × Nat → Nat × Nat
  | 0, eg => eg
  | j + 1, eg =>
    cmpScan W x y j
      (eg.1 * ctEq (limbOf W x j) (limbOf W y j),
        eg.2 + eg.1 * ctGt (limbOf W x j) (limbOf W y j))

/-- `Cmp` of values of at most `t` limbs: `(gt, eq, lt)` (41_nat_arithmetic.md R218). -/
def cmp (W t x y : Nat) : Nat × Nat × Nat :=
  let eg := cmpScan W x y t (1, 0)
  (eg.2, eg.1, 1 - eg.1 - eg.2)

/-- The OR of the low `t` limbs (41_nat_arithmetic.md R218). -/
def orLimbs (W x : Nat) : Nat → Nat
  | 0 => 0
  | j + 1 => orLimbs W x j ||| limbOf W x j

/-- `EqZero` of a value of at most `t` limbs (41_nat_arithmetic.md R218). -/
def eqZero (W t x : Nat) : Nat := ctEq (orLimbs W x t) 0

end Sys2Proof.Machine.Datapath
end

