-- ==== Sys2Proof/Machine/Timing.lean ====
section
/-!
DEFINITION. What is public and what a command's duration may depend on (00_scope.md R13;
46_inverse.md R346; 70_reset_and_hazards.md R470, R472). No step reads it (log entry 6).
-/

namespace Sys2Proof.Machine

/-- The further quantity the rule of the command in CMD makes public: the shift amount of NLSH and
NRSH, the operand's bit length for MODSET, the modulus value for MODSQRT, the bit length of the
reduced operand for MODINV with an even modulus (00_scope.md R13). -/
def leakOf (s : State) : Instr → Option Nat
  | .nlsh _ _ b _ => some (s.wreg b)
  | .nrsh _ _ b _ => some (s.wreg b)
  | .modset a _ => some (bitlen (s.nreg a).val)
  | .modsqrt _ _ mk => some (s.mreg mk).val
  | .modinv _ a mk => if (s.mreg mk).even then some (bitlen (s.red a (s.mreg mk))) else none
  | _ => none

/-- The public view of the command in CMD (00_scope.md R13). -/
structure PublicView where
  cmd  : BusWord
  nats : List (Nat × Option MReg)
  mods : List (Bool × Nat × Nat × Bool)
  leak : Option Nat
deriving DecidableEq, Repr

/-- The public part of a Nat register: announced length and tag (00_scope.md R13). -/
def NatReg.public (r : NatReg) : Nat × Option MReg := (r.ann, r.tag)

/-- The public part of a modulus register: valid, size, leading, even (00_scope.md R13). -/
def ModReg.public (r : ModReg) : Bool × Nat × Nat × Bool := (r.valid, r.size, r.leading, r.even)

/-- The public view (00_scope.md R13). -/
def State.publicView (s : State) : PublicView where
  cmd  := s.cmd
  nats := s.n.toList.map NatReg.public
  mods := s.m.toList.map ModReg.public
  leak :=
    match decode s.cmd with
    | .command i => leakOf s i
    | .illegal _ => none

/-- The announced length of a Nat operand, its tag left out (70_reset_and_hazards.md R472). -/
def State.lengthView (s : State) (i : NReg) : Nat × Option MReg := ((s.nreg i).ann, none)

/-- The announced length and the tag of a Nat operand (70_reset_and_hazards.md R472). -/
def State.operandView (s : State) (i : NReg) : Nat × Option MReg := (s.nreg i).public

/-- The size, leading and even fields of a modulus operand (70_reset_and_hazards.md R472). -/
def State.modulusView (s : State) (k : MReg) : Option (Nat × Nat × Bool) :=
  some ((s.mreg k).size, (s.mreg k).leading, (s.mreg k).even)

/-- The operands whose public parts the duration of a command may depend on, per command
(70_reset_and_hazards.md R472). DEDUCED, log entry 12. -/
def operandViews (s : State) : Instr → List (Nat × Option MReg) × Option (Nat × Nat × Bool)
  | .nop => ([], none)
  | .wmovi _ _ => ([], none)
  | .nsetw _ _ => ([], none)
  | .ngetw _ a _ => ([s.lengthView a], none)
  | .nputw d _ _ => ([s.lengthView d], none)
  | .ncopy _ a => ([s.lengthView a], none)
  | .cteq _ _ _ => ([], none)
  | .ctgt _ _ _ => ([], none)
  | .ctifelse _ _ _ _ => ([], none)
  | .div1 _ _ _ _ _ => ([], none)
  | .addvv _ _ _ _ _ => ([], none)
  | .subvv _ _ _ _ _ => ([], none)
  | .shlvu _ _ _ _ _ => ([], none)
  | .shrvu _ _ _ _ _ => ([], none)
  | .addmulvvw _ _ _ _ _ => ([], none)
  | .mulsubvvw _ _ _ _ _ => ([], none)
  | .addvw _ _ _ _ _ => ([], none)
  | .subvw _ _ _ _ _ => ([], none)
  | .ctcondcopy _ _ _ => ([], none)
  | .ctcondswap _ _ _ => ([], none)
  | .nresize _ a _ => ([s.lengthView a], none)
  | .nadd _ a b _ => ([s.lengthView a, s.lengthView b], none)
  | .nsub _ a b _ => ([s.lengthView a, s.lengthView b], none)
  | .nmul _ a b _ => ([s.lengthView a, s.lengthView b], none)
  | .nlsh _ a _ _ => ([s.lengthView a], none)
  | .nrsh _ a _ _ => ([s.lengthView a], none)
  | .ncmp _ _ a b _ => ([s.lengthView a, s.lengthView b], none)
  | .neq _ a b => ([s.lengthView a, s.lengthView b], none)
  | .neqzero _ a => ([s.lengthView a], none)
  | .modset a _ => ([s.lengthView a], none)
  | .shiftaddin d _ _ mk => ([s.operandView d], s.modulusView mk)
  | .mod _ a mk => ([s.operandView a], s.modulusView mk)
  | .div _ a mk _ => ([s.operandView a], s.modulusView mk)
  | .modadd _ a b mk => ([s.operandView a, s.operandView b], s.modulusView mk)
  | .modsub _ a b mk => ([s.operandView a, s.operandView b], s.modulusView mk)
  | .modneg _ a mk => ([s.operandView a], s.modulusView mk)
  | .modmul _ a b mk => ([s.operandView a, s.operandView b], s.modulusView mk)
  | .montmul _ a b mk => ([s.operandView a, s.operandView b], s.modulusView mk)
  | .montrep _ a mk => ([s.operandView a], s.modulusView mk)
  | .exp _ a b mk => ([s.operandView a, s.operandView b], s.modulusView mk)
  | .modinv _ a mk => ([s.operandView a], s.modulusView mk)
  | .coprime _ a b => ([s.lengthView a, s.lengthView b], none)
  | .modsqrt _ a mk => ([s.operandView a], s.modulusView mk)

/-- What the duration of the command in CMD may depend on (70_reset_and_hazards.md R472). DESIGN CHOICE,
log entry 12: the duration of a word that is no command depends on the word only; R470 allows the
whole public view, and R472 lists no such word. -/
def State.timingView (s : State) : TimingView :=
  match decode s.cmd with
  | .command i => ⟨s.cmd, (operandViews s i).1, (operandViews s i).2, leakOf s i⟩
  | .illegal _ => ⟨s.cmd, [], none, none⟩

/-- `cycles(cw, P)` of the command in CMD (70_reset_and_hazards.md R470). -/
def State.cycles (s : State) : Nat := Config.cycles s.timingView

end Sys2Proof.Machine
end

