-- ==== Sys2Proof/Safety.lean ====
section
/-!
DEFINITION. What claims about the engine are stated in: the state invariant the spec gives
(10_state.md R31 to R34, R38, R40 to R42, R50), what completing with and without an error means
(60_exceptions.md R400, R403), what a command leaves unchanged, the table of errors in the order of
60_exceptions.md R402 and R404, and the end of a run (70_reset_and_hazards.md R475).
-/

namespace Sys2Proof.Machine

/-! ## The invariant -/

/-- Word registers hold `W` bits (10_state.md R38). -/
abbrev State.WordsFit (s : State) : Prop := ∀ i : WReg, s.wreg i < 2 ^ s.W

/-- Announced lengths fit the register and values fit the announced length (10_state.md R31, R32). -/
abbrev State.NatsFit (s : State) : Prop :=
  ∀ i : NReg, (s.nreg i).ann ≤ s.capacity ∧ (s.nreg i).val < 2 ^ (s.nreg i).ann

/-- A reduced tag names a valid modulus above the value (10_state.md R34). -/
abbrev State.TagsHold (s : State) : Prop :=
  ∀ (i : NReg) (k : MReg), (s.nreg i).tag = some k →
    (s.mreg k).valid = true ∧ (s.nreg i).val < (s.mreg k).val

/-- The fields of a modulus register of an engine with `W` and `L` (10_state.md R40 to R42). -/
abbrev ModReg.Consistent (W L : Nat) (r : ModReg) : Prop :=
  (r.valid = false → r = ModReg.empty) ∧
  (r.valid = true →
    1 ≤ r.val ∧ r.size = nlimbs W (bitlen r.val) ∧ r.size ≤ L ∧
    r.leading = r.size * W - bitlen r.val ∧ (r.even = true ↔ r.val % 2 = 0) ∧
    r.m0inv < 2 ^ W ∧ (r.even = false → (r.val * r.m0inv + 1) % 2 ^ W = 0))

/-- Every modulus register is consistent (10_state.md R40 to R42). -/
abbrev State.ModuliConsistent (s : State) : Prop := ∀ k : MReg, (s.mreg k).Consistent s.W s.L

/-- ERRCODE is 0 exactly while ERR is 0, and a busy engine has neither DONE nor ERR (10_state.md R50;
20_memory.md R88; 60_exceptions.md R401, R403). -/
abbrev State.StatusConsistent (s : State) : Prop :=
  (s.err = false ↔ s.errcode = .none) ∧ (s.busy = true → s.done = false ∧ s.err = false)

/-- The invariant of every reachable state. -/
abbrev State.Inv (s : State) : Prop :=
  s.WordsFit ∧ s.NatsFit ∧ s.TagsHold ∧ s.ModuliConsistent ∧ s.StatusConsistent

/-! ## Completion -/

/-- What no completion step touches: the parameters, CTRL.IE, CMDOVR, ACCERR, CMD, the events still to
come and the last bus reply. -/
def State.HostSideSame (s t : State) : Prop :=
  t.params = s.params ∧ t.ie = s.ie ∧ t.cmdovr = s.cmdovr ∧ t.accerr = s.accerr ∧ t.cmd = s.cmd ∧
    t.script = s.script ∧ t.reply = s.reply

/-- The part of a completion that errors and successes share (60_exceptions.md R400). -/
def State.Completed (s t : State) : Prop :=
  t.busy = false ∧ t.done = true ∧ t.cmdcnt = s.cmdcnt + 1 ∧ s.HostSideSame t

/-- `t` is `s` after a command completed without an error, its writes aside (60_exceptions.md
R400). -/
def State.CompletedOk (s t : State) : Prop :=
  s.Completed t ∧ t.err = s.err ∧ t.errcode = s.errcode ∧ t.errcmd = s.errcmd ∧
    t.faultLog = s.faultLog

/-- `t` is `s` after the command in CMD completed with the error `e`: no register file has changed,
and ERR, ERRCODE, ERRCMD record it (60_exceptions.md R403). -/
def State.CompletedWithError (s t : State) (e : ErrCode) : Prop :=
  s.Completed t ∧ t.n = s.n ∧ t.w = s.w ∧ t.m = s.m ∧ t.draws = s.draws ∧ t.err = true ∧
    t.errcode = e ∧ t.errcmd = s.cmd ∧ t.faultLog = s.faultLog ++ [.command e s.cmd]

/-- Every Nat register outside `ns` and every word register outside `ws` is unchanged, and so is
every modulus register (10_state.md R43). -/
def State.FilesSameBut (s t : State) (ns : List NReg) (ws : List WReg) : Prop :=
  (∀ i : NReg, i ∉ ns → t.nreg i = s.nreg i) ∧ (∀ i : WReg, i ∉ ws → t.wreg i = s.wreg i) ∧
    ∀ k : MReg, t.mreg k = s.mreg k

/-- The whole frame of a command that completes without an error and takes no draw: it writes the Nat
registers `ns` and the word registers `ws` and nothing else. -/
def State.WritesOnly (s t : State) (ns : List NReg) (ws : List WReg) : Prop :=
  s.CompletedOk t ∧ s.FilesSameBut t ns ws ∧ t.draws = s.draws

/-! ## The table of errors -/

/-- The modulus register a command names as its modulus (30_encoding.md R122, formats SA, M1, M2,
MD). -/
def modulusOperand : Instr → Option MReg
  | .shiftaddin _ _ _ mk => some mk
  | .mod _ _ mk => some mk
  | .div _ _ mk _ => some mk
  | .modadd _ _ _ mk => some mk
  | .modsub _ _ _ mk => some mk
  | .modneg _ _ mk => some mk
  | .modmul _ _ _ mk => some mk
  | .montmul _ _ _ mk => some mk
  | .montrep _ _ mk => some mk
  | .exp _ _ _ mk => some mk
  | .modinv _ _ mk => some mk
  | .modsqrt _ _ mk => some mk
  | _ => none

/-- The named modulus register has `valid = 0` (60_exceptions.md R402, code 3). -/
def modulusInvalidError (s : State) (i : Instr) : Bool :=
  match modulusOperand i with
  | some mk => !(s.mreg mk).valid
  | none => false

/-- The command needs an odd modulus and the named one is even (60_exceptions.md R402, code 4). -/
def modulusEvenError (s : State) : Instr → Bool
  | .montmul _ _ _ mk => (s.mreg mk).even
  | .modsqrt _ _ mk => (s.mreg mk).even
  | _ => false

/-- A length or an index is out of range (60_exceptions.md R402, code 5). -/
def lengthError (s : State) : Instr → Bool
  | .addvv _ _ _ _ k => decide (k = 0 ∨ s.L < k)
  | .subvv _ _ _ _ k => decide (k = 0 ∨ s.L < k)
  | .shlvu _ _ _ k _ => decide (k = 0 ∨ s.L < k)
  | .shrvu _ _ _ k _ => decide (k = 0 ∨ s.L < k)
  | .addmulvvw _ _ _ _ k => decide (k = 0 ∨ s.L < k)
  | .mulsubvvw _ _ _ _ k => decide (k = 0 ∨ s.L < k)
  | .addvw _ _ _ _ k => decide (k = 0 ∨ s.L < k)
  | .subvw _ _ _ _ k => decide (k = 0 ∨ s.L < k)
  | .ngetw _ _ j => decide (s.L ≤ j)
  | .nputw d _ j => decide (nlimbs s.W (s.nreg d).ann ≤ j)
  | .nresize _ _ cap => decide (cap < 0 ∨ (s.L * s.W : Int) < cap)
  | .nadd _ a b cap =>
    decide (s.L * s.W < (if cap < 0 then max (s.nreg a).ann (s.nreg b).ann + 1 else cap.toNat))
  | .nsub _ a b cap =>
    decide (s.L * s.W < (if cap < 0 then max (s.nreg a).ann (s.nreg b).ann else cap.toNat))
  | .nmul _ a b cap =>
    decide (s.L * s.W < (if cap < 0 then (s.nreg a).ann + (s.nreg b).ann else cap.toNat))
  | .nlsh _ a b cap =>
    decide (s.L * s.W < (if cap < 0 then (s.nreg a).ann + s.wreg b else cap.toNat))
  | .nrsh _ a b cap =>
    decide (s.L * s.W < (if cap < 0 then (s.nreg a).ann - s.wreg b else cap.toNat))
  | .div _ a mk cap =>
    decide (s.L * s.W <
      (if cap < 0 then (s.nreg a).ann + 2 - bitlen (s.mreg mk).val else cap.toNat))
  | _ => false

/-- The shift amount is not below `W` (60_exceptions.md R402, code 6). -/
def shiftError (s : State) : Instr → Bool
  | .shlvu _ _ _ _ amount => decide (s.W ≤ amount)
  | .shrvu _ _ _ _ amount => decide (s.W ≤ amount)
  | _ => false

/-- MODSET from the value 0 (60_exceptions.md R402, code 7). -/
def emptyModulusError (s : State) : Instr → Bool
  | .modset a _ => decide ((s.nreg a).val = 0)
  | _ => false

/-- The first error condition a command meets, in the order of 60_exceptions.md R404. -/
def commandError (i : Instr) (s : State) : ErrCode :=
  if modulusInvalidError s i then .modulusInvalid
  else if modulusEvenError s i then .modulusEven
  else if lengthError s i then .length
  else if shiftError s i then .shift
  else if emptyModulusError s i then .emptyModulus
  else .none

/-- `decode_and_check(cw)` of 60_exceptions.md R400 on the word in CMD: ERRCODE of its completion, NONE
when it has no error. -/
def wordError (s : State) : ErrCode :=
  match decode s.cmd with
  | .command i => commandError i s
  | .illegal e => decodeErrCode e

/-! ## Encoding -/

/-- Bit `b` of a command word is outside OP and the fields the format uses, or in RSV
(30_encoding.md R122, R130). -/
def Format.unusedBit (fmt : Format) (b : Nat) : Bool :=
  let u := fmt.uses
  (decide (52 ≤ b ∧ b < 56) && !u.d) || (decide (48 ≤ b ∧ b < 52) && !u.e) ||
    (decide (44 ≤ b ∧ b < 48) && !u.a) || (decide (40 ≤ b ∧ b < 44) && !u.b) ||
    (decide (36 ≤ b ∧ b < 40) && !u.c) || (decide (34 ≤ b ∧ b < 36) && !u.mreg) ||
    decide (32 ≤ b ∧ b < 34) || (decide (16 ≤ b ∧ b < 32) && u.imm != .all) ||
    (decide (b < 16) && u.imm == .none)

/-- The command `i` completes with the error `e` and none of its effect (60_exceptions.md R403). -/
def State.FailsWith (s : State) (i : Instr) (e : ErrCode) : Prop :=
  ∃ t, exec i s = .next t ∧ s.CompletedWithError t e

/-- The "Encoding" line and the RESERVED_FIELD part of the "Errors" line of a command's rule: a word
with opcode `op` in CMD is executed as the command `build` makes of its fields when every bit the
format does not use is 0, else it completes with RESERVED_FIELD
(30_encoding.md R121, R122, R128, R130). -/
def Encoded (op : Nat) (fmt : Format) (build : Fields → Instr) : Prop :=
  ∀ s : State, bitsOf s.cmd 56 8 = op →
    ((∀ b, b < 64 → Format.unusedBit fmt b = true → s.cmd.getLsbD b = false) →
      completion s = exec (build (Fields.unpack s.cmd)) s) ∧
    ((∃ b, b < 64 ∧ Format.unusedBit fmt b = true ∧ s.cmd.getLsbD b = true) →
      ∃ t, completion s = .next t ∧ s.CompletedWithError t .reservedField)

/-! ## Events -/

/-- A host write of `v` at an offset of the window. -/
def State.writeAt (s : State) (off : Nat) (v : BusWord) : Event :=
  .access ⟨s.params.base + off, 8, true, v⟩

/-- A host read at an offset of the window. -/
def State.readAt (s : State) (off : Nat) : Event := .access ⟨s.params.base + off, 8, false, 0⟩

/-- A host read at the offset is answered with `v` and changes no state of the engine
(20_memory.md R89, R93, R94). -/
def State.Reads (s : State) (off : Nat) (v : BusWord) : Prop :=
  ∀ rest, step { s with script := s.readAt off :: rest } =
    .next { s with script := rest, reply := some ⟨v, false⟩ }

/-- A host write at the offset is answered and changes no state of the engine (20_memory.md R87). -/
def State.Ignores (s : State) (off : Nat) : Prop :=
  ∀ v rest, step { s with script := s.writeAt off v :: rest } =
    .next { s with script := rest, reply := some ⟨0, false⟩ }

/-- The engine moves next: its event stands first, or the script is empty (20_memory.md R98). -/
def State.EngineMoves (s : State) : Prop := s.script = [] ∨ ∃ rest, s.script = .engine :: rest

/-- A write of CTRL with SRST = 1 (20_memory.md R96). -/
def State.SoftReset (s : State) (x : Access) : Prop :=
  x.addr = s.params.base + 0x010 ∧ x.size = 8 ∧ x.write = true ∧ x.data.getLsbD 1 = true

/-- The next event resets the engine (70_reset_and_hazards.md R450, R451). -/
def State.Resets (s : State) : Prop :=
  (∃ rest, s.script = .reset :: rest) ∨
    ∃ x rest, s.script = .access x :: rest ∧ s.SoftReset x

/-- Every value of the table of reset values (10_state.md R60). -/
def State.HasResetValues (s : State) : Prop :=
  (∀ i : NReg, s.nreg i = ⟨0, 0, none⟩ ∧ ∀ j, s.limb i j = 0) ∧ (∀ i : WReg, s.wreg i = 0) ∧
    (∀ k : MReg, s.mreg k = ⟨false, 0, 0, 0, 0, false⟩ ∧ ∀ j, limbOf s.W (s.mreg k).val j = 0) ∧
    s.ie = false ∧ s.statusWord = 0 ∧ s.cmd = 0 ∧ s.errcmd = 0 ∧ s.cmdcnt = 0 ∧ s.irq = false ∧
    s.readReg .id = 0x015AFE ∧
    (s.readReg .config).toNat = 4 * 2 ^ 48 + 16 * 2 ^ 40 + 16 * 2 ^ 32 + s.L * 2 ^ 16 + s.W

/-- The reserved opcodes (30_encoding.md R129). -/
def reservedOpcode (op : Nat) : Prop :=
  (0x06 ≤ op ∧ op ≤ 0x0F) ∨ (0x14 ≤ op ∧ op ≤ 0x1F) ∨ (0x2A ≤ op ∧ op ≤ 0x2F) ∨
    (0x39 ≤ op ∧ op ≤ 0x3F) ∨ (0x44 ≤ op ∧ op ≤ 0x4F) ∨ (0x54 ≤ op ∧ op ≤ 0x5F) ∨
    (0x62 ≤ op ∧ op ≤ 0x6F) ∨ (0x71 ≤ op ∧ op ≤ 0x7F) ∨ (0x82 ≤ op ∧ op ≤ 0x8F) ∨
    (0x91 ≤ op ∧ op ≤ 0xFF)

/-- The reserved ranges of the address map (20_memory.md R84). -/
def reservedOffset (L off : Nat) : Prop :=
  (0x038 ≤ off ∧ off < 0x100) ∨ (0x180 ≤ off ∧ off < 0x200) ∨ (0x280 ≤ off ∧ off < 0x300) ∨
    (0x320 ≤ off ∧ off < 0x340) ∨ (0x360 ≤ off ∧ off < 0x100000) ∨
    (0x100000 ≤ off ∧ off < 0x240000 ∧ L ≤ off % 0x10000 / 8) ∨
    (0x240000 ≤ off ∧ off < 0x400000)

/-- A register that an instance with `L` limbs has (20_memory.md R84). -/
def BusReg.Present (L : Nat) : BusReg → Prop
  | .nlimb _ j => j < L
  | .mlimb _ j => j < L
  | .reserved => False
  | _ => True

/-- The registers marked RO in the address map (20_memory.md R84). -/
def BusReg.ReadOnly : BusReg → Prop
  | .id | .config | .errcmd | .cmdcnt | .mstat _ | .minv _ | .mlimb _ _ => True
  | _ => False

/-! ## Secrets and tags -/

/-- The states are equal but for the reduced tags (10_state.md R35). -/
def State.SameButTags (s t : State) : Prop :=
  t = { s with n := t.n } ∧
    ∀ i : NReg, (t.nreg i).ann = (s.nreg i).ann ∧ (t.nreg i).val = (s.nreg i).val

/-! ## End of a run -/

/-- The host has made its last access and the engine is idle (70_reset_and_hazards.md R475). -/
def State.RunOver (s : State) : Prop := s.script = [] ∧ s.busy = false

end Sys2Proof.Machine
end

