-- ==== Sys2Proof/Certificates/Slice0/Obligations.lean ====
section
/-!
DEFINITION. The statements for the provers, from the numbered rules of spec/. A result statement gives
the whole next state as `s` with the named fields written, so it says the result, the completion and
the frame at once: every field it does not name is unchanged. In each, `M` is the modulus value and
`bitlen M` its `BitLen` (10_state.md R41).

The fields `script`, `reply`, `faultLog` and `draws` are the model's own (log entries 2, 3, 4, 5, each a
DESIGN CHOICE): what a statement says of them is the model's choice, not a rule of the spec.
-/

open Sys2Proof Sys2Proof.Machine

/-! ## Reset, events and the bus -/

/-- 10_state.md R60; 70_reset_and_hazards.md R450, R451. -/
def Obligations.ResetGivesTheTableOfResetValues : Prop :=
  (∀ p : Params, (State.resetOf p).HasResetValues ∧ (State.resetOf p).params = p) ∧
  (∃ p, State.reset = State.resetOf p) ∧
  ∀ s : State, s.Resets →
    ∃ t, step s = .next t ∧ t.HasResetValues ∧ t.params = s.params ∧ t.script = s.script.tail

/-- 20_memory.md R96: IE, then the soft reset of R451 when bit 1 is 1. -/
def Obligations.CtrlWriteSetsIeThenResets : Prop :=
  ∀ (s : State) (v : BusWord) (rest : List Event), s.script = s.writeAt 0x010 v :: rest →
    (v.getLsbD 1 = false →
      step s = .next { s with script := rest, reply := some ⟨0, false⟩, ie := v.getLsbD 0 }) ∧
    (v.getLsbD 1 = true →
      ∃ t, step s = .next t ∧ t.HasResetValues ∧ t.ie = false ∧ t.params = s.params ∧
        t.script = rest)

/-- 20_memory.md R88: accepted when idle and without an error, else dropped. -/
def Obligations.CmdWriteIsAcceptedOrDropped : Prop :=
  ∀ (s : State) (v : BusWord) (rest : List Event), s.script = s.writeAt 0x020 v :: rest →
    (s.busy = false ∧ s.err = false →
      step s = .next
        { s with script := rest, reply := some ⟨0, false⟩, cmd := v, busy := true, done := false }) ∧
    (s.busy = true ∨ s.err = true →
      step s = .next { s with script := rest, reply := some ⟨0, false⟩, cmdovr := true })

/-- 20_memory.md R90, R91, R92: writes into the register files. -/
def Obligations.RegisterFileWritesOrDrops : Prop :=
  (∀ (s : State) (i : WReg) (v : BusWord) (rest : List Event),
    s.script = s.writeAt (0x100 + 8 * i.val) v :: rest →
      step s = .next
        (if s.busy then { s with script := rest, reply := some ⟨0, false⟩, accerr := true }
        else { s with
          script := rest, reply := some ⟨0, false⟩, w := s.w.set i.val (v.toNat % 2 ^ s.W) })) ∧
  (∀ (s : State) (i : NReg) (v : BusWord) (rest : List Event),
    s.script = s.writeAt (0x200 + 8 * i.val) v :: rest →
      step s = .next
        (if s.busy = true ∨ s.L * s.W < v.toNat % 2 ^ 32 then
          { s with script := rest, reply := some ⟨0, false⟩, accerr := true }
        else { s with
          script := rest, reply := some ⟨0, false⟩
          n := s.n.set i.val
            ⟨v.toNat % 2 ^ 32, (s.nreg i).val % 2 ^ (v.toNat % 2 ^ 32), none⟩ })) ∧
  (∀ (s : State) (i : NReg) (j : Nat) (v : BusWord) (rest : List Event), j < s.L →
    s.script = s.writeAt (0x100000 + 0x10000 * i.val + 8 * j) v :: rest →
      step s = .next
        (if s.busy = true ∨ nlimbs s.W (s.nreg i).ann ≤ j then
          { s with script := rest, reply := some ⟨0, false⟩, accerr := true }
        else { s with
          script := rest, reply := some ⟨0, false⟩
          n := s.n.set i.val
            ⟨(s.nreg i).ann,
              ((s.nreg i).val - (s.nreg i).val / 2 ^ (j * s.W) % 2 ^ s.W * 2 ^ (j * s.W) +
                v.toNat % 2 ^ s.W * 2 ^ (j * s.W)) % 2 ^ (s.nreg i).ann, none⟩ }))

/-- 20_memory.md R95: write-1-to-clear. -/
def Obligations.StatusWriteClearsTheOnes : Prop :=
  ∀ (s : State) (v : BusWord) (rest : List Event), s.script = s.writeAt 0x018 v :: rest →
    step s = .next
      { s with
        script := rest, reply := some ⟨0, false⟩
        done := if v.getLsbD 1 then false else s.done
        err := if v.getLsbD 2 then false else s.err
        errcode := if v.getLsbD 2 then .none else s.errcode
        cmdovr := if v.getLsbD 3 then false else s.cmdovr
        accerr := if v.getLsbD 4 then false else s.accerr }

/-- 20_memory.md R89 with 10_state.md R45, R46, R49 to R53 and the codes of 60_exceptions.md R402: the
control and status registers read at any time, and ID, CONFIG, ERRCMD and CMDCNT ignore writes. -/
def Obligations.ControlRegistersReadAtAnyTime : Prop :=
  ∀ s : State,
    (∃ v, s.Reads 0x000 v ∧ bitsOf v 0 16 = 0x5AFE ∧ bitsOf v 16 8 = 0x01 ∧ bitsOf v 24 40 = 0) ∧
    (∃ v, s.Reads 0x008 v ∧ bitsOf v 0 8 = s.W ∧ bitsOf v 8 8 = 0 ∧ bitsOf v 16 16 = s.L ∧
      bitsOf v 32 8 = 16 ∧ bitsOf v 40 8 = 16 ∧ bitsOf v 48 8 = 4 ∧ bitsOf v 56 8 = 0) ∧
    (∃ v, s.Reads 0x010 v ∧ v.getLsbD 0 = s.ie ∧ bitsOf v 1 63 = 0) ∧
    (∃ v, s.Reads 0x018 v ∧ v.getLsbD 0 = s.busy ∧ v.getLsbD 1 = s.done ∧ v.getLsbD 2 = s.err ∧
      v.getLsbD 3 = s.cmdovr ∧ v.getLsbD 4 = s.accerr ∧ bitsOf v 5 3 = 0 ∧
      bitsOf v 8 8 =
        (match s.errcode with
        | .none => 0x00
        | .illegalOpcode => 0x01
        | .reservedField => 0x02
        | .modulusInvalid => 0x03
        | .modulusEven => 0x04
        | .length => 0x05
        | .shift => 0x06
        | .emptyModulus => 0x07) ∧
      bitsOf v 16 48 = 0) ∧
    s.Reads 0x020 s.cmd ∧ s.Reads 0x028 s.errcmd ∧ s.Reads 0x030 s.cmdcnt ∧
    s.Ignores 0x000 ∧ s.Ignores 0x008 ∧ s.Ignores 0x028 ∧ s.Ignores 0x030

/-- 20_memory.md R93, R94 with 10_state.md R32, R44, R54, R55, R56: the register files read while the
engine is idle; while BUSY a read of one gives a word that nothing constrains, and changes nothing of
the engine. That such a read counts one draw is the model's choice, not R93's (DESIGN CHOICE, log
entries 5 and 14). -/
def Obligations.RegisterFilesReadWhileIdle : Prop :=
  (∀ s : State, s.Inv → s.busy = false →
    (∀ i : WReg, ∃ v, s.Reads (0x100 + 8 * i.val) v ∧ v.toNat = s.wreg i) ∧
    (∀ i : NReg, ∃ v, s.Reads (0x200 + 8 * i.val) v ∧ bitsOf v 0 32 = (s.nreg i).ann ∧
      v.getLsbD 32 = (s.nreg i).tag.isSome ∧
      bitsOf v 33 2 = ((s.nreg i).tag.map Fin.val).getD 0 ∧ bitsOf v 35 29 = 0) ∧
    (∀ (i : NReg) (j : Nat), j < s.L →
      ∃ v, s.Reads (0x100000 + 0x10000 * i.val + 8 * j) v ∧
        v.toNat = (s.nreg i).val / 2 ^ (j * s.W) % 2 ^ s.W ∧
        (nlimbs s.W (s.nreg i).ann ≤ j → v = 0)) ∧
    (∀ k : MReg, ∃ v, s.Reads (0x300 + 8 * k.val) v ∧ v.getLsbD 0 = (s.mreg k).valid ∧
      v.getLsbD 1 = (s.mreg k).even ∧ bitsOf v 2 6 = 0 ∧ bitsOf v 8 7 = (s.mreg k).leading ∧
      bitsOf v 15 17 = 0 ∧ bitsOf v 32 16 = (s.mreg k).size ∧ bitsOf v 48 16 = 0) ∧
    (∀ k : MReg, ∃ v, s.Reads (0x340 + 8 * k.val) v ∧ v.toNat = (s.mreg k).m0inv) ∧
    (∀ (k : MReg) (j : Nat), j < s.L →
      ∃ v, s.Reads (0x200000 + 0x10000 * k.val + 8 * j) v ∧
        v.toNat = (s.mreg k).val / 2 ^ (j * s.W) % 2 ^ s.W ∧ ((s.mreg k).size ≤ j → v = 0))) ∧
  (∀ (s : State) (r : BusReg) (off : Nat) (rest : List Event), s.busy = true → r.Present s.L →
    r.isFile = true → r.offset = some off →
      ∃ x, step { s with script := s.readAt off :: rest } =
        .next { s with script := rest, reply := some ⟨x, false⟩, draws := s.draws + 1 }) ∧
  (∀ (s : State) (k : MReg) (j : Nat), j < s.L →
    s.Ignores (0x300 + 8 * k.val) ∧ s.Ignores (0x340 + 8 * k.val) ∧
      s.Ignores (0x200000 + 0x10000 * k.val + 8 * j))

/-- 20_memory.md R87: reserved offsets read 0 and ignore writes; so do writes to read-only registers. -/
def Obligations.ReservedAndReadOnlyAreInert : Prop :=
  (∀ (s : State) (off : Nat), reservedOffset s.L off → off % 8 = 0 →
    s.Reads off 0 ∧ s.Ignores off) ∧
  ∀ (s : State) (r : BusReg) (off : Nat), r.Present s.L → r.ReadOnly → r.offset = some off →
    s.Ignores off

/-- 20_memory.md R86; 93_implementation_defined.md I13: any other width or alignment is a bus error
without effect on the engine. That the fault log keeps it is the model's choice, not R86's (DESIGN
CHOICE, log entry 4; I13 calls it a fault on the host side). -/
def Obligations.BusErrorsChangeNoEngineState : Prop :=
  ∀ (s : State) (x : Access) (rest : List Event), s.script = .access x :: rest →
    s.params.base ≤ x.addr → x.addr < s.params.base + 0x400000 →
      (x.size ≠ 8 ∨ (x.addr - s.params.base) % 8 ≠ 0) →
        step s = .next
          { s with
            script := rest, reply := some ⟨0, true⟩
            faultLog := s.faultLog ++ [.bus x] }

/-- 20_memory.md R84: the address map, both ways. -/
def Obligations.AddressMapIsOneToOne : Prop :=
  (∀ (L off : Nat) (r : BusReg), L ≤ 8192 → r.Present L → r.offset = some off →
    locate L off = r ∧ off % 8 = 0 ∧ off < 0x400000) ∧
  (∀ (L off : Nat), off < 0x400000 → off % 8 = 0 →
    (reservedOffset L off → locate L off = .reserved) ∧
    (¬ reservedOffset L off → (locate L off).Present L ∧ (locate L off).offset = some off))

/-- 20_memory.md R85: the limbs a host makes of a big-endian byte string are its integer. -/
def Obligations.BigEndianLoadGivesTheInteger : Prop :=
  ∀ (wd : Width) (bytes : List (BitVec 8)),
    ((List.range (nlimbs wd.bits (8 * bytes.length))).map fun j =>
        limbOfBigEndian (wd.bits / 8) bytes j (wd.bits / 8) * 2 ^ (j * wd.bits)).sum =
      bytes.foldl (fun acc b => acc * 256 + b.toNat) 0

/-- 60_exceptions.md R410: the line follows IE and DONE; what raises and what clears it. -/
def Obligations.InterruptFollowsIeAndDone : Prop :=
  (∀ s : State, s.irq = (s.ie && s.done)) ∧
  (∀ s t : State, completion s = .next t → t.irq = s.ie) ∧
  (∀ (s t : State) (v : BusWord) (rest : List Event),
    s.script = s.writeAt 0x020 v :: rest → s.busy = false → s.err = false → step s = .next t →
      t.irq = false) ∧
  (∀ (s t : State) (v : BusWord) (rest : List Event),
    s.script = s.writeAt 0x018 v :: rest → v.getLsbD 1 = true → step s = .next t →
      t.irq = false) ∧
  (∀ (s t : State) (v : BusWord) (rest : List Event),
    s.script = s.writeAt 0x010 v :: rest → v.getLsbD 0 = false → step s = .next t →
      t.irq = false)

/-! ## Whole-machine rules -/

/-- 10_state.md R31 to R34, R38, R40 to R42, R50: the invariant holds at reset. -/
def Obligations.InvariantHoldsAtReset : Prop :=
  State.reset.Inv ∧ ∀ p : Params, (State.resetOf p).Inv

/-- 10_state.md R31 to R34, R38, R40 to R42, R50: every step keeps the invariant. -/
def Obligations.StepKeepsTheInvariant : Prop :=
  ∀ s t : State, s.Inv → step s = .next t → t.Inv

/-- 10_state.md R43: a modulus register changes only by MODSET of it and by reset. -/
def Obligations.ModuliChangeOnlyByModsetOrReset : Prop :=
  ∀ (s t : State) (k : MReg), step s = .next t → t.mreg k ≠ s.mreg k →
    s.Resets ∨ (s.EngineMoves ∧ s.busy = true ∧ ∃ a, decode s.cmd = .command (.modset a k))

/-- 10_state.md R53: CMDCNT counts completions modulo `2^64`, errors included. -/
def Obligations.CmdcntCountsCompletions : Prop :=
  ∀ s t : State, step s = .next t →
    (s.EngineMoves ∧ s.busy = true → t.cmdcnt = s.cmdcnt + 1) ∧
    (s.Resets → t.cmdcnt = 0) ∧
    (¬ (s.EngineMoves ∧ s.busy = true) → ¬ s.Resets → t.cmdcnt = s.cmdcnt)

/-- 10_state.md R57; 20_memory.md R103; 60_exceptions.md R400 (2): while BUSY no host access but a soft
reset changes a register file or the latched command. -/
def Obligations.BusyEngineHoldsItsState : Prop :=
  ∀ (s t : State) (x : Access) (rest : List Event), s.busy = true →
    s.script = .access x :: rest → ¬ s.SoftReset x → step s = .next t →
      t.n = s.n ∧ t.w = s.w ∧ t.m = s.m ∧ t.cmd = s.cmd ∧ t.errcmd = s.errcmd ∧
        t.cmdcnt = s.cmdcnt ∧ t.busy = true ∧ (s.done = false → t.done = false) ∧
        t.params = s.params ∧ t.script = rest

/-- 93_implementation_defined.md part 3: no step clears an entry of the fault log; a completion adds
one exactly when it ends with an error. Its form is the model's choice (DESIGN CHOICE, log entry 4). -/
def Obligations.FaultLogOnlyGrows : Prop :=
  (∀ s t : State, step s = .next t → ∃ l, t.faultLog = s.faultLog ++ l) ∧
  ∀ s t : State, s.EngineMoves → s.busy = true → step s = .next t →
    t.faultLog =
      if wordError s = .none then s.faultLog else s.faultLog ++ [.command (wordError s) s.cmd]

/-- 60_exceptions.md R404 with R402, R403: every accepted word completes, with the first error of the
table in the order of R404 or with none, and which one is a function of the public view. -/
def Obligations.WordsCompleteWithTheFirstError : Prop :=
  (∀ s : State,
    ∃ t, completion s = .next t ∧
      (wordError s = .none → s.CompletedOk t) ∧
      (wordError s ≠ .none → s.CompletedWithError t (wordError s))) ∧
  ∀ s t : State, s.params = t.params → s.ModuliConsistent → t.ModuliConsistent →
    s.publicView = t.publicView → wordError s = wordError t

/-- From 10_state.md R35: states that differ in reduced tags only give results that do. That a drawn
value is the same free value in both is the model's choice, not R35's (DESIGN CHOICE, log entry 5). -/
def Obligations.TagsChangeNoResult : Prop :=
  ∀ s t s' : State, s.SameButTags t → completion s = .next s' →
    ∃ t', completion t = .next t' ∧ s'.SameButTags t'

/-- From 70_reset_and_hazards.md R470: the number of cycles is a function of the public view, at least
1. That two states of instances with another `W` or `L` share the number, as the statement says for
any two states, is the model's choice (DESIGN CHOICE, log entry 6). -/
def Obligations.CyclesDependOnThePublicView : Prop :=
  (∀ s : State, 1 ≤ s.cycles) ∧
  ∀ s t : State, s.publicView = t.publicView → s.cycles = t.cycles

/-- 00_scope.md R13; 92_eei_decisions.md D22, D24, D26: two runs that differ only in secrets leave the
same announced lengths and tags, and the same valid, size and leading fields. -/
def Obligations.ResultLengthsDependOnThePublicView : Prop :=
  ∀ s t s' t' : State, s.params = t.params → s.Inv → t.Inv → s.publicView = t.publicView →
    completion s = .next s' → completion t = .next t' →
      (∀ i : NReg, (s'.nreg i).ann = (t'.nreg i).ann ∧ (s'.nreg i).tag = (t'.nreg i).tag) ∧
      (∀ k : MReg, (s'.mreg k).valid = (t'.mreg k).valid ∧ (s'.mreg k).size = (t'.mreg k).size ∧
        (s'.mreg k).leading = (t'.mreg k).leading)

/-! ## Encoding and the step -/

/-- 30_encoding.md R121, R122, R128: decoding gives back every encoded well-formed command. -/
def Obligations.DecodeOfEncodeIsTheCommand : Prop :=
  ∀ i : Instr, i.wellFormed = true → decode (encode i) = .command i

/-- 30_encoding.md R120 to R122, R130: every word that decodes is the encoding of its command. -/
def Obligations.EncodeOfDecodeIsTheWord : Prop :=
  ∀ (v : BusWord) (i : Instr), decode v = .command i → i.wellFormed = true ∧ encode i = v

/-- 30_encoding.md R129: the reserved opcodes, and no other, end with ILLEGAL_OPCODE. -/
def Obligations.ReservedOpcodesAreIllegal : Prop :=
  ∀ s : State,
    (reservedOpcode (bitsOf s.cmd 56 8) →
      ∃ t, completion s = .next t ∧ s.CompletedWithError t .illegalOpcode) ∧
    (¬ reservedOpcode (bitsOf s.cmd 56 8) → decode s.cmd ≠ .illegal .illegalOpcode)

/-- 30_encoding.md R130: a 1 in a bit the format does not use, or in RSV, and nothing else, ends a
word with a legal opcode with RESERVED_FIELD; the used bits of IMM. -/
def Obligations.UnusedBitsAreReservedFieldErrors : Prop :=
  (∀ (s : State) (r : OpcodeRow), r ∈ opcodeRows → r.op = bitsOf s.cmd 56 8 →
    ((∃ b, b < 64 ∧ Format.unusedBit r.format b = true ∧ s.cmd.getLsbD b = true) →
      ∃ t, completion s = .next t ∧ s.CompletedWithError t .reservedField) ∧
    ((∀ b, b < 64 → Format.unusedBit r.format b = true → s.cmd.getLsbD b = false) →
      decode s.cmd ≠ .illegal .reservedField)) ∧
  ∀ (fmt : Format) (b : Nat), b < 34 →
    (Format.unusedBit fmt b = false ↔
      (fmt ∈ [Format.wi, .vs, .nr, .nc, .ns, .md] ∧ b < 32) ∨
        (fmt ∈ [Format.v, .vw, .ngw, .npw] ∧ b < 16))

/-- 30_encoding.md R121, R122, R128: words written out from the encoding (95_test_vectors.md part 3). -/
def Obligations.SampleWordsDecode : Prop :=
  decode 0x0000000000000000 = .command .nop ∧
  decode 0x1304123000000000 = .command (.div1 0 4 1 2 3) ∧
  decode 0x2200100000400001 = .command (.shlvu 0 0 1 1 64) ∧
  decode 0x43300004FFFFFFFF = .command (.div 3 0 1 (-1)) ∧
  decode 0x5020110400000000 = .command (.modadd 2 1 1 1) ∧
  decode 0x6070560000000000 = .command (.montmul 7 5 6 0) ∧
  decode 0x7030120000000000 = .command (.exp 3 1 2 0) ∧
  decode 0x8120100000000000 = .command (.coprime 2 1 0)

/-- 60_exceptions.md R400 (3); 30_encoding.md R132: a busy engine's step runs the command in CMD; an
idle engine's step changes nothing. -/
def Obligations.StepRunsTheDecodedCommand : Prop :=
  ∀ s : State,
    (∀ i, s.busy = true → decode s.cmd = .command i →
      (s.script = [] → step s = exec i s) ∧
      (∀ rest, s.script = .engine :: rest → step s = exec i { s with script := rest })) ∧
    (s.busy = false →
      (s.script = [] → step s = .next s) ∧
      (∀ rest, s.script = .engine :: rest → step s = .next { s with script := rest }))

/-- 30_encoding.md R129, R130, R132; 60_exceptions.md R403: a word that is no command completes with
its decode error. -/
def Obligations.IllegalWordsCompleteWithTheirError : Prop :=
  ∀ (s : State) (e : DecodeError), s.busy = true → decode s.cmd = .illegal e →
    (s.script = [] →
      ∃ t, step s = .next t ∧
        s.CompletedWithError t
          (match e with
          | .illegalOpcode => .illegalOpcode
          | .reservedField => .reservedField)) ∧
    (∀ rest, s.script = .engine :: rest →
      ∃ t, step s = .next t ∧
        State.CompletedWithError { s with script := rest } t
          (match e with
          | .illegalOpcode => .illegalOpcode
          | .reservedField => .reservedField))

/-! ## Register access (41_nat_arithmetic.md part 2) -/

/-- 41_nat_arithmetic.md R200, R201, R202, R205: NOP, WMOVI, NSETW, NCOPY. -/
def Obligations.RegisterMovesAndNop : Prop :=
  (Encoded 0x00 .z (fun _ => .nop) ∧
    ∀ s : State,
      exec .nop s = .next { s with busy := false, done := true, cmdcnt := s.cmdcnt + 1 }) ∧
  (Encoded 0x01 .wi (fun f => .wmovi f.d f.imm) ∧
    ∀ (s : State) (d : WReg) (imm : Nat), imm < 2 ^ 32 →
      exec (.wmovi d imm) s = .next
        { s with
          w := s.w.set d.val imm
          busy := false, done := true, cmdcnt := s.cmdcnt + 1 }) ∧
  (Encoded 0x02 .nw (fun f => .nsetw f.d f.a) ∧
    ∀ (s : State) (d : NReg) (a : WReg), s.WordsFit →
      exec (.nsetw d a) s = .next
        { s with
          n := s.n.set d.val ⟨s.W, s.wreg a, none⟩
          busy := false, done := true, cmdcnt := s.cmdcnt + 1 }) ∧
  (Encoded 0x05 .n1 (fun f => .ncopy f.d f.a) ∧
    ∀ (s : State) (d a : NReg), s.NatsFit →
      exec (.ncopy d a) s = .next
        { s with
          n := s.n.set d.val (s.nreg a)
          busy := false, done := true, cmdcnt := s.cmdcnt + 1 })

/-- 41_nat_arithmetic.md R203, R204: NGETW, NPUTW. -/
def Obligations.LimbReadAndLimbWrite : Prop :=
  (Encoded 0x03 .ngw (fun f => .ngetw f.d f.a f.low16) ∧
    ∀ (s : State) (d : WReg) (a : NReg) (j : Nat),
      (j < s.L →
        exec (.ngetw d a j) s = .next
          { s with
            w := s.w.set d.val ((s.nreg a).val / 2 ^ (j * s.W) % 2 ^ s.W)
            busy := false, done := true, cmdcnt := s.cmdcnt + 1 }) ∧
      (j < s.L → nlimbs s.W (s.nreg a).ann ≤ j → s.NatsFit →
        (s.nreg a).val / 2 ^ (j * s.W) % 2 ^ s.W = 0) ∧
      (s.L ≤ j → s.FailsWith (.ngetw d a j) .length)) ∧
  (Encoded 0x04 .npw (fun f => .nputw f.d f.a f.low16) ∧
    ∀ (s : State) (d : NReg) (a : WReg) (j : Nat),
      (j < nlimbs s.W (s.nreg d).ann →
        exec (.nputw d a j) s = .next
          { s with
            n := s.n.set d.val
              ⟨(s.nreg d).ann,
                ((s.nreg d).val - (s.nreg d).val / 2 ^ (j * s.W) % 2 ^ s.W * 2 ^ (j * s.W) +
                  s.wreg a * 2 ^ (j * s.W)) % 2 ^ (s.nreg d).ann, none⟩
            busy := false, done := true, cmdcnt := s.cmdcnt + 1 }) ∧
      (nlimbs s.W (s.nreg d).ann ≤ j → s.FailsWith (.nputw d a j) .length))

/-! ## Word commands (40_limb_primitives.md part 2) -/

/-- 40_limb_primitives.md R170, R171, R172: CTEQ, CTGT, CTIFELSE. -/
def Obligations.WordDecisions : Prop :=
  (Encoded 0x10 .w2 (fun f => .cteq f.d f.a f.b) ∧
    ∀ (s : State) (d a b : WReg),
      exec (.cteq d a b) s = .next
        { s with
          w := s.w.set d.val (if s.wreg a = s.wreg b then 1 else 0)
          busy := false, done := true, cmdcnt := s.cmdcnt + 1 }) ∧
  (Encoded 0x11 .w2 (fun f => .ctgt f.d f.a f.b) ∧
    ∀ (s : State) (d a b : WReg),
      exec (.ctgt d a b) s = .next
        { s with
          w := s.w.set d.val (if s.wreg b < s.wreg a then 1 else 0)
          busy := false, done := true, cmdcnt := s.cmdcnt + 1 }) ∧
  (Encoded 0x12 .w3 (fun f => .ctifelse f.d f.a f.b f.c) ∧
    ∀ (s : State) (d a b c : WReg), s.WordsFit →
      let mask := ((0 - (s.wreg c : Int)) % 2 ^ s.W).toNat
      let r := s.wreg b ^^^ (mask &&& (s.wreg a ^^^ s.wreg b))
      exec (.ctifelse d a b c) s = .next
        { s with
          w := s.w.set d.val r
          busy := false, done := true, cmdcnt := s.cmdcnt + 1 } ∧
      (s.wreg c = 1 → r = s.wreg a) ∧ (s.wreg c = 0 → r = s.wreg b) ∧
      (s.wreg a = s.wreg b → r = s.wreg a))

/-- 40_limb_primitives.md R173: DIV1, with the two drawn words outside its domain. That they count two
draws is the model's choice, not R173's (DESIGN CHOICE, log entry 5). -/
def Obligations.TwoWordByOneWordDivision : Prop :=
  Encoded 0x13 .wd (fun f => .div1 f.d f.e f.a f.b f.c) ∧
  ∀ (s : State) (d e a b c : WReg), s.WordsFit →
    (s.wreg c ≠ 0 ∧ s.wreg a < s.wreg c →
      exec (.div1 d e a b c) s = .next
        { s with
          w := (s.w.set d.val ((s.wreg a * 2 ^ s.W + s.wreg b) / s.wreg c)).set e.val
            ((s.wreg a * 2 ^ s.W + s.wreg b) % s.wreg c)
          busy := false, done := true, cmdcnt := s.cmdcnt + 1 }) ∧
    (s.wreg c = 0 ∨ s.wreg c ≤ s.wreg a →
      ∃ q r, q < 2 ^ s.W ∧ r < 2 ^ s.W ∧
        exec (.div1 d e a b c) s = .next
          { s with
            w := (s.w.set d.val q).set e.val r
            draws := s.draws + 2
            busy := false, done := true, cmdcnt := s.cmdcnt + 1 })

/-! ## Limb vectors (40_limb_primitives.md parts 3 and 4) -/

/-- 40_limb_primitives.md R176, R177 with R160, R161: ADDVV, SUBVV. -/
def Obligations.VectorAddAndSubtract : Prop :=
  (Encoded 0x20 .v (fun f => .addvv f.d f.e f.a f.b f.low16) ∧
    ∀ (s : State) (d : NReg) (e : WReg) (a b : NReg) (k : Nat),
      let B := 2 ^ (k * s.W)
      let T := (s.nreg a).val % B + (s.nreg b).val % B
      (1 ≤ k ∧ k ≤ s.L →
        exec (.addvv d e a b k) s = .next
          { s with
            n := s.n.set d.val ⟨k * s.W, T % B, none⟩
            w := s.w.set e.val (T / B)
            busy := false, done := true, cmdcnt := s.cmdcnt + 1 }) ∧
      (k = 0 ∨ s.L < k → s.FailsWith (.addvv d e a b k) .length)) ∧
  (Encoded 0x21 .v (fun f => .subvv f.d f.e f.a f.b f.low16) ∧
    ∀ (s : State) (d : NReg) (e : WReg) (a b : NReg) (k : Nat),
      let B := 2 ^ (k * s.W)
      let T : Int := ((s.nreg a).val % B : Nat) - ((s.nreg b).val % B : Nat)
      (1 ≤ k ∧ k ≤ s.L →
        exec (.subvv d e a b k) s = .next
          { s with
            n := s.n.set d.val ⟨k * s.W, (T % B).toNat, none⟩
            w := s.w.set e.val (if T < 0 then 1 else 0)
            busy := false, done := true, cmdcnt := s.cmdcnt + 1 }) ∧
      (k = 0 ∨ s.L < k → s.FailsWith (.subvv d e a b k) .length))

/-- 40_limb_primitives.md R178, R179 with R160, R161: SHLVU, SHRVU. -/
def Obligations.VectorShifts : Prop :=
  (Encoded 0x22 .vs (fun f => .shlvu f.d f.e f.a f.low16 f.high16) ∧
    ∀ (s : State) (d : NReg) (e : WReg) (a : NReg) (k amount : Nat),
      let B := 2 ^ (k * s.W)
      let T := (s.nreg a).val % B * 2 ^ amount
      (1 ≤ k ∧ k ≤ s.L → amount < s.W →
        exec (.shlvu d e a k amount) s = .next
          { s with
            n := s.n.set d.val ⟨k * s.W, T % B, none⟩
            w := s.w.set e.val (T / B)
            busy := false, done := true, cmdcnt := s.cmdcnt + 1 }) ∧
      (k = 0 ∨ s.L < k → s.FailsWith (.shlvu d e a k amount) .length) ∧
      (1 ≤ k ∧ k ≤ s.L → s.W ≤ amount → s.FailsWith (.shlvu d e a k amount) .shift)) ∧
  (Encoded 0x23 .vs (fun f => .shrvu f.d f.e f.a f.low16 f.high16) ∧
    ∀ (s : State) (d : NReg) (e : WReg) (a : NReg) (k amount : Nat),
      let X := (s.nreg a).val % 2 ^ (k * s.W)
      (1 ≤ k ∧ k ≤ s.L → amount < s.W →
        exec (.shrvu d e a k amount) s = .next
          { s with
            n := s.n.set d.val ⟨k * s.W, X / 2 ^ amount, none⟩
            w := s.w.set e.val (X % 2 ^ amount * 2 ^ (s.W - amount))
            busy := false, done := true, cmdcnt := s.cmdcnt + 1 }) ∧
      (k = 0 ∨ s.L < k → s.FailsWith (.shrvu d e a k amount) .length) ∧
      (1 ≤ k ∧ k ≤ s.L → s.W ≤ amount → s.FailsWith (.shrvu d e a k amount) .shift))

/-- 40_limb_primitives.md R180, R181 with R160, R161: ADDMULVVW, MULSUBVVW. -/
def Obligations.VectorMultiplyAccumulate : Prop :=
  (Encoded 0x24 .vw (fun f => .addmulvvw f.d f.e f.a f.b f.low16) ∧
    ∀ (s : State) (d : NReg) (e : WReg) (a : NReg) (b : WReg) (k : Nat),
      let B := 2 ^ (k * s.W)
      let T := (s.nreg d).val % B + (s.nreg a).val % B * s.wreg b
      (1 ≤ k ∧ k ≤ s.L → s.WordsFit →
        exec (.addmulvvw d e a b k) s = .next
          { s with
            n := s.n.set d.val ⟨k * s.W, T % B, none⟩
            w := s.w.set e.val (T / B)
            busy := false, done := true, cmdcnt := s.cmdcnt + 1 }) ∧
      (k = 0 ∨ s.L < k → s.FailsWith (.addmulvvw d e a b k) .length)) ∧
  (Encoded 0x25 .vw (fun f => .mulsubvvw f.d f.e f.a f.b f.low16) ∧
    ∀ (s : State) (d : NReg) (e : WReg) (a : NReg) (b : WReg) (k : Nat),
      let B := 2 ^ (k * s.W)
      let T : Int := ((s.nreg d).val % B : Nat) - ((s.nreg a).val % B : Nat) * (s.wreg b : Int)
      (1 ≤ k ∧ k ≤ s.L → s.WordsFit →
        ∃ z borrow : Nat, borrow < 2 ^ s.W ∧ (z : Int) = T % B ∧ (z : Int) - borrow * B = T ∧
          exec (.mulsubvvw d e a b k) s = .next
            { s with
              n := s.n.set d.val ⟨k * s.W, z, none⟩
              w := s.w.set e.val borrow
              busy := false, done := true, cmdcnt := s.cmdcnt + 1 }) ∧
      (k = 0 ∨ s.L < k → s.FailsWith (.mulsubvvw d e a b k) .length))

/-- 40_limb_primitives.md R182, R183 with R160, R161: ADDVW, SUBVW. -/
def Obligations.VectorAndWord : Prop :=
  (Encoded 0x26 .vw (fun f => .addvw f.d f.e f.a f.b f.low16) ∧
    ∀ (s : State) (d : NReg) (e : WReg) (a : NReg) (b : WReg) (k : Nat),
      let B := 2 ^ (k * s.W)
      let T := (s.nreg a).val % B + s.wreg b
      (1 ≤ k ∧ k ≤ s.L → s.WordsFit →
        T / B ≤ 1 ∧
        exec (.addvw d e a b k) s = .next
          { s with
            n := s.n.set d.val ⟨k * s.W, T % B, none⟩
            w := s.w.set e.val (T / B)
            busy := false, done := true, cmdcnt := s.cmdcnt + 1 }) ∧
      (k = 0 ∨ s.L < k → s.FailsWith (.addvw d e a b k) .length)) ∧
  (Encoded 0x27 .vw (fun f => .subvw f.d f.e f.a f.b f.low16) ∧
    ∀ (s : State) (d : NReg) (e : WReg) (a : NReg) (b : WReg) (k : Nat),
      let B := 2 ^ (k * s.W)
      let T : Int := ((s.nreg a).val % B : Nat) - (s.wreg b : Int)
      (1 ≤ k ∧ k ≤ s.L →
        exec (.subvw d e a b k) s = .next
          { s with
            n := s.n.set d.val ⟨k * s.W, (T % B).toNat, none⟩
            w := s.w.set e.val (if T < 0 then 1 else 0)
            busy := false, done := true, cmdcnt := s.cmdcnt + 1 }) ∧
      (k = 0 ∨ s.L < k → s.FailsWith (.subvw d e a b k) .length))

/-- 40_limb_primitives.md R185, R186 with R164: bit `i` of the result is taken by bit `i mod W` of the
mask, from the values before the command; the announced length does not depend on the Choice. -/
def Obligations.ConditionalCopyAndSwap : Prop :=
  (Encoded 0x28 .cc (fun f => .ctcondcopy f.d f.a f.c) ∧
    ∀ (s : State) (d a : NReg) (c : WReg), s.NatsFit →
      let mask := ((0 - (s.wreg c : Int)) % 2 ^ s.W).toNat
      ∃ r,
        (∀ i, r.testBit i =
          if mask.testBit (i % s.W) then (s.nreg a).val.testBit i else (s.nreg d).val.testBit i) ∧
        (s.wreg c = 1 → r = (s.nreg a).val) ∧ (s.wreg c = 0 → r = (s.nreg d).val) ∧
        exec (.ctcondcopy d a c) s = .next
          { s with
            n := s.n.set d.val ⟨max (s.nreg d).ann (s.nreg a).ann, r, none⟩
            busy := false, done := true, cmdcnt := s.cmdcnt + 1 }) ∧
  (Encoded 0x29 .cw (fun f => .ctcondswap f.d f.e f.c) ∧
    ∀ (s : State) (d e : NReg) (c : WReg), s.NatsFit →
      let mask := ((0 - (s.wreg c : Int)) % 2 ^ s.W).toNat
      let A := max (s.nreg d).ann (s.nreg e).ann
      ∃ r r',
        (∀ i, r.testBit i =
          if mask.testBit (i % s.W) then (s.nreg e).val.testBit i else (s.nreg d).val.testBit i) ∧
        (∀ i, r'.testBit i =
          if mask.testBit (i % s.W) then (s.nreg d).val.testBit i else (s.nreg e).val.testBit i) ∧
        (s.wreg c = 1 → r = (s.nreg e).val ∧ r' = (s.nreg d).val) ∧
        (s.wreg c = 0 → r = (s.nreg d).val ∧ r' = (s.nreg e).val) ∧
        exec (.ctcondswap d e c) s = .next
          { s with
            n := (s.n.set d.val ⟨A, r, none⟩).set e.val ⟨A, r', none⟩
            busy := false, done := true, cmdcnt := s.cmdcnt + 1 })

/-! ## Nat arithmetic (41_nat_arithmetic.md parts 3 and 4) -/

/-- 41_nat_arithmetic.md R206 to R209 with R215, R216: NRESIZE, NADD, NSUB, NMUL. -/
def Obligations.NatArithmetic : Prop :=
  (Encoded 0x30 .nr (fun f => .nresize f.d f.a f.cap) ∧
    ∀ (s : State) (d a : NReg) (cap : Int),
      (0 ≤ cap ∧ cap ≤ s.L * s.W →
        exec (.nresize d a cap) s = .next
          { s with
            n := s.n.set d.val ⟨cap.toNat, (s.nreg a).val % 2 ^ cap.toNat, none⟩
            busy := false, done := true, cmdcnt := s.cmdcnt + 1 }) ∧
      (cap < 0 ∨ s.L * s.W < cap → s.FailsWith (.nresize d a cap) .length)) ∧
  (Encoded 0x31 .nc (fun f => .nadd f.d f.a f.b f.cap) ∧
    ∀ (s : State) (d a b : NReg) (cap : Int),
      let len := if cap < 0 then max (s.nreg a).ann (s.nreg b).ann + 1 else cap.toNat
      (len ≤ s.L * s.W →
        exec (.nadd d a b cap) s = .next
          { s with
            n := s.n.set d.val ⟨len, ((s.nreg a).val + (s.nreg b).val) % 2 ^ len, none⟩
            busy := false, done := true, cmdcnt := s.cmdcnt + 1 }) ∧
      (s.L * s.W < len → s.FailsWith (.nadd d a b cap) .length)) ∧
  (Encoded 0x32 .nc (fun f => .nsub f.d f.a f.b f.cap) ∧
    ∀ (s : State) (d a b : NReg) (cap : Int),
      let len := if cap < 0 then max (s.nreg a).ann (s.nreg b).ann else cap.toNat
      (len ≤ s.L * s.W →
        exec (.nsub d a b cap) s = .next
          { s with
            n := s.n.set d.val
              ⟨len, (((s.nreg a).val - (s.nreg b).val : Int) % 2 ^ len).toNat, none⟩
            busy := false, done := true, cmdcnt := s.cmdcnt + 1 }) ∧
      (s.L * s.W < len → s.FailsWith (.nsub d a b cap) .length)) ∧
  (Encoded 0x33 .nc (fun f => .nmul f.d f.a f.b f.cap) ∧
    ∀ (s : State) (d a b : NReg) (cap : Int),
      let len := if cap < 0 then (s.nreg a).ann + (s.nreg b).ann else cap.toNat
      (len ≤ s.L * s.W →
        exec (.nmul d a b cap) s = .next
          { s with
            n := s.n.set d.val ⟨len, (s.nreg a).val * (s.nreg b).val % 2 ^ len, none⟩
            busy := false, done := true, cmdcnt := s.cmdcnt + 1 }) ∧
      (s.L * s.W < len → s.FailsWith (.nmul d a b cap) .length))

/-- 41_nat_arithmetic.md R210, R211 with R215, R216: NLSH, NRSH, by any amount. -/
def Obligations.NatShifts : Prop :=
  (Encoded 0x34 .ns (fun f => .nlsh f.d f.a f.b f.cap) ∧
    ∀ (s : State) (d a : NReg) (b : WReg) (cap : Int),
      let len := if cap < 0 then (s.nreg a).ann + s.wreg b else cap.toNat
      (len ≤ s.L * s.W →
        exec (.nlsh d a b cap) s = .next
          { s with
            n := s.n.set d.val ⟨len, (s.nreg a).val * 2 ^ s.wreg b % 2 ^ len, none⟩
            busy := false, done := true, cmdcnt := s.cmdcnt + 1 }) ∧
      (s.L * s.W < len → s.FailsWith (.nlsh d a b cap) .length)) ∧
  (Encoded 0x35 .ns (fun f => .nrsh f.d f.a f.b f.cap) ∧
    ∀ (s : State) (d a : NReg) (b : WReg) (cap : Int),
      let len := if cap < 0 then (s.nreg a).ann - s.wreg b else cap.toNat
      (len ≤ s.L * s.W →
        exec (.nrsh d a b cap) s = .next
          { s with
            n := s.n.set d.val ⟨len, (s.nreg a).val / 2 ^ s.wreg b % 2 ^ len, none⟩
            busy := false, done := true, cmdcnt := s.cmdcnt + 1 }) ∧
      (s.L * s.W < len → s.FailsWith (.nrsh d a b cap) .length))

/-- 41_nat_arithmetic.md R212, R213, R214: NCMP, NEQ, NEQZERO. -/
def Obligations.NatComparisons : Prop :=
  (Encoded 0x36 .ncmp (fun f => .ncmp f.d f.e f.a f.b f.c) ∧
    ∀ (s : State) (d e : WReg) (a b : NReg) (c : WReg),
      let X := (s.nreg a).val
      let Y := (s.nreg b).val
      exec (.ncmp d e a b c) s = .next
        { s with
          w := ((s.w.set d.val (if Y < X then 1 else 0)).set e.val (if X = Y then 1 else 0)).set
            c.val (if X < Y then 1 else 0)
          busy := false, done := true, cmdcnt := s.cmdcnt + 1 }) ∧
  (Encoded 0x37 .ne (fun f => .neq f.d f.a f.b) ∧
    ∀ (s : State) (d : WReg) (a b : NReg),
      exec (.neq d a b) s = .next
        { s with
          w := s.w.set d.val (if (s.nreg a).val = (s.nreg b).val then 1 else 0)
          busy := false, done := true, cmdcnt := s.cmdcnt + 1 }) ∧
  (Encoded 0x38 .nz (fun f => .neqzero f.d f.a) ∧
    ∀ (s : State) (d : WReg) (a : NReg),
      exec (.neqzero d a) s = .next
        { s with
          w := s.w.set d.val (if (s.nreg a).val = 0 then 1 else 0)
          busy := false, done := true, cmdcnt := s.cmdcnt + 1 })

/-! ## Modulus and reduction (42_modulus_reduction.md) -/

/-- 42_modulus_reduction.md R240: MODSET. That the drawn `m0inv` of an even value counts one draw is the
model's choice, not R240's (DESIGN CHOICE, log entry 5). -/
def Obligations.ModulusConstruction : Prop :=
  Encoded 0x40 .ms (fun f => .modset f.a f.mreg) ∧
  ∀ (s : State) (a : NReg) (mk : MReg),
    let v := (s.nreg a).val
    let size := (bitlen v + s.W - 1) / s.W
    let tags := s.n.map fun r => if r.tag = some mk then ⟨r.ann, r.val, none⟩ else r
    (v % 2 = 1 →
      ∃ inverse, inverse < 2 ^ s.W ∧ (v * inverse + 1) % 2 ^ s.W = 0 ∧
        exec (.modset a mk) s = .next
          { s with
            m := s.m.set mk.val ⟨true, v, size, size * s.W - bitlen v, inverse, false⟩
            n := tags
            busy := false, done := true, cmdcnt := s.cmdcnt + 1 }) ∧
    (v % 2 = 0 → v ≠ 0 →
      ∃ drawn, drawn < 2 ^ s.W ∧
        exec (.modset a mk) s = .next
          { s with
            m := s.m.set mk.val ⟨true, v, size, size * s.W - bitlen v, drawn, true⟩
            n := tags
            draws := s.draws + 1
            busy := false, done := true, cmdcnt := s.cmdcnt + 1 }) ∧
    (v = 0 → s.FailsWith (.modset a mk) .emptyModulus)

/-- 42_modulus_reduction.md R243 with R242: SHIFTADDIN. -/
def Obligations.ShiftWordIntoResidue : Prop :=
  Encoded 0x41 .sa (fun f => .shiftaddin f.d f.e f.a f.mreg) ∧
  ∀ (s : State) (d : NReg) (e a : WReg) (mk : MReg), s.Inv →
    let M := (s.mreg mk).val
    let T := (s.nreg d).val % M * 2 ^ s.W + s.wreg a
    ((s.mreg mk).valid = true →
      exec (.shiftaddin d e a mk) s = .next
        { s with
          n := s.n.set d.val ⟨bitlen M, T % M, some mk⟩
          w := s.w.set e.val (T / M)
          busy := false, done := true, cmdcnt := s.cmdcnt + 1 }) ∧
    ((s.mreg mk).valid = false → s.FailsWith (.shiftaddin d e a mk) .modulusInvalid)

/-- 42_modulus_reduction.md R245, R247 with R242: MOD, DIV. -/
def Obligations.RemainderAndQuotient : Prop :=
  (Encoded 0x42 .m1 (fun f => .mod f.d f.a f.mreg) ∧
    ∀ (s : State) (d a : NReg) (mk : MReg), s.Inv →
      let M := (s.mreg mk).val
      ((s.mreg mk).valid = true →
        exec (.mod d a mk) s = .next
          { s with
            n := s.n.set d.val ⟨bitlen M, (s.nreg a).val % M, some mk⟩
            busy := false, done := true, cmdcnt := s.cmdcnt + 1 }) ∧
      ((s.mreg mk).valid = true → (s.nreg a).tag = some mk →
        (s.nreg a).val % M = (s.nreg a).val) ∧
      ((s.mreg mk).valid = false → s.FailsWith (.mod d a mk) .modulusInvalid)) ∧
  (Encoded 0x43 .md (fun f => .div f.d f.a f.mreg f.cap) ∧
    ∀ (s : State) (d a : NReg) (mk : MReg) (cap : Int), s.Inv →
      let M := (s.mreg mk).val
      let len := if cap < 0 then (max ((s.nreg a).ann - bitlen M + 2 : Int) 0).toNat else cap.toNat
      ((s.mreg mk).valid = true → len ≤ s.L * s.W →
        exec (.div d a mk cap) s = .next
          { s with
            n := s.n.set d.val ⟨len, (s.nreg a).val / M % 2 ^ len, none⟩
            busy := false, done := true, cmdcnt := s.cmdcnt + 1 }) ∧
      ((s.mreg mk).valid = true → s.L * s.W < len → s.FailsWith (.div d a mk cap) .length) ∧
      ((s.mreg mk).valid = false → s.FailsWith (.div d a mk cap) .modulusInvalid))

/-! ## Modular commands (43_modular_ops.md to 47_modsqrt.md) -/

/-- 43_modular_ops.md R281 to R284 with R280 and 42_modulus_reduction.md R242: MODADD, MODSUB,
MODNEG, MODMUL. -/
def Obligations.ModularArithmetic : Prop :=
  Encoded 0x50 .m2 (fun f => .modadd f.d f.a f.b f.mreg) ∧
  Encoded 0x51 .m2 (fun f => .modsub f.d f.a f.b f.mreg) ∧
  Encoded 0x52 .m1 (fun f => .modneg f.d f.a f.mreg) ∧
  Encoded 0x53 .m2 (fun f => .modmul f.d f.a f.b f.mreg) ∧
  ∀ (s : State) (d a b : NReg) (mk : MReg), s.Inv →
    let M := (s.mreg mk).val
    let x := (s.nreg a).val % M
    let y := (s.nreg b).val % M
    let result (r : Nat) : State :=
      { s with
        n := s.n.set d.val ⟨bitlen M, r, some mk⟩
        busy := false, done := true, cmdcnt := s.cmdcnt + 1 }
    ((s.mreg mk).valid = true →
      exec (.modadd d a b mk) s = .next (result ((x + y) % M)) ∧
      exec (.modsub d a b mk) s = .next (result ((x + M - y) % M)) ∧
      exec (.modneg d a mk) s = .next (result ((M - x) % M)) ∧
      exec (.modmul d a b mk) s = .next (result (x * y % M))) ∧
    ((s.mreg mk).valid = false →
      s.FailsWith (.modadd d a b mk) .modulusInvalid ∧
      s.FailsWith (.modsub d a b mk) .modulusInvalid ∧
      s.FailsWith (.modneg d a mk) .modulusInvalid ∧
      s.FailsWith (.modmul d a b mk) .modulusInvalid)

/-- 44_montgomery.md R301, R303 with 42_modulus_reduction.md R242: MONTMUL, MONTREP. -/
def Obligations.MontgomeryProductAndForm : Prop :=
  Encoded 0x60 .m2 (fun f => .montmul f.d f.a f.b f.mreg) ∧
  Encoded 0x61 .m1 (fun f => .montrep f.d f.a f.mreg) ∧
  ∀ (s : State) (d a b : NReg) (mk : MReg), s.Inv →
    let M := (s.mreg mk).val
    let Rm := 2 ^ (s.W * (s.mreg mk).size)
    let x := (s.nreg a).val % M
    let y := (s.nreg b).val % M
    let result (r : Nat) : State :=
      { s with
        n := s.n.set d.val ⟨bitlen M, r, some mk⟩
        busy := false, done := true, cmdcnt := s.cmdcnt + 1 }
    ((s.mreg mk).valid = true → (s.mreg mk).even = false →
      ∃ ri, ri < M ∧ Rm * ri % M = 1 % M ∧
        exec (.montmul d a b mk) s = .next (result (x * y * ri % M))) ∧
    ((s.mreg mk).valid = true → (s.mreg mk).even = true →
      s.FailsWith (.montmul d a b mk) .modulusEven) ∧
    ((s.mreg mk).valid = true → exec (.montrep d a mk) s = .next (result (x * Rm % M))) ∧
    ((s.mreg mk).valid = false →
      s.FailsWith (.montmul d a b mk) .modulusInvalid ∧
      s.FailsWith (.montrep d a mk) .modulusInvalid)

/-- 45_exponentiation.md R321 with R320 and 42_modulus_reduction.md R242: EXP. -/
def Obligations.ModularPower : Prop :=
  Encoded 0x70 .m2 (fun f => .exp f.d f.a f.b f.mreg) ∧
  ∀ (s : State) (d a b : NReg) (mk : MReg), s.Inv →
    let M := (s.mreg mk).val
    ((s.mreg mk).valid = true →
      exec (.exp d a b mk) s = .next
        { s with
          n := s.n.set d.val ⟨bitlen M, ((s.nreg a).val % M) ^ (s.nreg b).val % M, some mk⟩
          busy := false, done := true, cmdcnt := s.cmdcnt + 1 }) ∧
    ((s.mreg mk).valid = false → s.FailsWith (.exp d a b mk) .modulusInvalid)

/-- 46_inverse.md R341 with R340 and 42_modulus_reduction.md R242: MODINV. That the drawn residue of an
operand without an inverse counts one draw is the model's choice (DESIGN CHOICE, log entry 5). -/
def Obligations.ModularInverse : Prop :=
  Encoded 0x80 .m1 (fun f => .modinv f.d f.a f.mreg) ∧
  ∀ (s : State) (d a : NReg) (mk : MReg), s.Inv →
    let M := (s.mreg mk).val
    let x := (s.nreg a).val % M
    ((s.mreg mk).valid = true → Nat.gcd x M = 1 →
      ∃ r, r < M ∧ x * r % M = 1 % M ∧
        exec (.modinv d a mk) s = .next
          { s with
            n := s.n.set d.val ⟨bitlen M, r, some mk⟩
            busy := false, done := true, cmdcnt := s.cmdcnt + 1 }) ∧
    ((s.mreg mk).valid = true → Nat.gcd x M ≠ 1 →
      ∃ r, r < M ∧
        exec (.modinv d a mk) s = .next
          { s with
            n := s.n.set d.val ⟨bitlen M, r, some mk⟩
            draws := s.draws + 1
            busy := false, done := true, cmdcnt := s.cmdcnt + 1 }) ∧
    ((s.mreg mk).valid = false → s.FailsWith (.modinv d a mk) .modulusInvalid)

/-- 46_inverse.md R345: COPRIME. -/
def Obligations.CoprimalityTest : Prop :=
  Encoded 0x81 .wc (fun f => .coprime f.d f.a f.b) ∧
  ∀ (s : State) (d : WReg) (a b : NReg),
    exec (.coprime d a b) s = .next
      { s with
        w := s.w.set d.val (if Nat.gcd (s.nreg a).val (s.nreg b).val = 1 then 1 else 0)
        busy := false, done := true, cmdcnt := s.cmdcnt + 1 }

/-- 47_modsqrt.md R360, R361 with R363 and 42_modulus_reduction.md R242: MODSQRT. That the drawn residue
counts one draw is the model's choice (DESIGN CHOICE, log entry 5); which root the iteration gives is
R363's, from general knowledge (log entry 16). -/
def Obligations.ModularSquareRoot : Prop :=
  Encoded 0x90 .m1 (fun f => .modsqrt f.d f.a f.mreg) ∧
  ∀ (s : State) (d a : NReg) (mk : MReg), s.Inv →
    let p := (s.mreg mk).val
    let x := (s.nreg a).val % p
    let result (r : Nat) : State :=
      { s with
        n := s.n.set d.val ⟨bitlen p, r, some mk⟩
        busy := false, done := true, cmdcnt := s.cmdcnt + 1 }
    ((s.mreg mk).valid = true → p = 1 → exec (.modsqrt d a mk) s = .next (result 0)) ∧
    ((s.mreg mk).valid = true → p % 4 = 3 →
      exec (.modsqrt d a mk) s = .next (result (x ^ ((p + 1) / 4) % p))) ∧
    ((s.mreg mk).valid = true → p % 4 = 1 → Nat.Prime p → (∃ y, y * y % p = x) →
      tonelliShanks x p < p ∧ tonelliShanks x p * tonelliShanks x p % p = x ∧
        exec (.modsqrt d a mk) s = .next (result (tonelliShanks x p))) ∧
    ((s.mreg mk).valid = true → p % 4 = 1 → p ≠ 1 →
      ¬ (Nat.Prime p ∧ ∃ y, y * y % p = x) →
        ∃ r, r < p ∧
          exec (.modsqrt d a mk) s = .next { result r with draws := s.draws + 1 }) ∧
    ((s.mreg mk).valid = true → (s.mreg mk).even = true →
      s.FailsWith (.modsqrt d a mk) .modulusEven) ∧
    ((s.mreg mk).valid = false → s.FailsWith (.modsqrt d a mk) .modulusInvalid)

/-! ## Datapaths

Each datapath of Sys2Proof/Machine/Datapath.lean computes the result of its command's rule. -/

/-- From 40_limb_primitives.md R174 and 46_inverse.md R344: the two shift-and-subtract loops. Their
bodies are the model's own, PRESUMED (log entry 11): neither rule gives one. -/
def Obligations.DivisionLoopsDivide : Prop :=
  (∀ (wd : Width) (hi lo dv : Nat), hi < dv → lo < 2 ^ wd.bits → dv < 2 ^ wd.bits →
    Datapath.div wd.bits hi lo dv =
      ((hi * 2 ^ wd.bits + lo) / dv, (hi * 2 ^ wd.bits + lo) % dv)) ∧
  ∀ (wd : Width) (nM v x : Nat), 0 < x → v < 2 ^ (2 * nM * wd.bits) → x < 2 ^ (nM * wd.bits) →
    Datapath.divDouble wd.bits nM v x = v / x

/-- 42_modulus_reduction.md R241: five Newton iterations give `m0inv` of R240. -/
def Obligations.NewtonGivesTheInverseWord : Prop :=
  ∀ (wd : Width) (v : Nat), v % 2 = 1 →
    Datapath.m0inv wd.bits v < 2 ^ wd.bits ∧
      (v * Datapath.m0inv wd.bits v + 1) % 2 ^ wd.bits = 0

/-- 42_modulus_reduction.md R244, R249, R250, R251: the atomic reduction step. -/
def Obligations.ReductionStepMeetsItsContract : Prop :=
  ∀ (wd : Width) (M z x : Nat), 1 ≤ M → z < M → x < 2 ^ wd.bits →
    let nM := nlimbs wd.bits (bitlen M)
    let t := nM * wd.bits - bitlen M
    Datapath.shiftAddIn wd.bits nM t M z x =
      ((z * 2 ^ wd.bits + x) % M, (z * 2 ^ wd.bits + x) / M)

/-- 42_modulus_reduction.md R246, R248; 44_montgomery.md R304: reduction, quotient and Montgomery form
by that step. -/
def Obligations.ReductionLoopsReduce : Prop :=
  (∀ (wd : Width) (M ann X : Nat), 1 ≤ M → X < 2 ^ ann →
    let nM := nlimbs wd.bits (bitlen M)
    Datapath.divMod wd.bits nM (nM * wd.bits - bitlen M) M ann X = (X % M, X / M)) ∧
  ∀ (wd : Width) (M x : Nat), x < M →
    let nM := nlimbs wd.bits (bitlen M)
    Datapath.montRep wd.bits nM (nM * wd.bits - bitlen M) M x = x * 2 ^ (wd.bits * nM) % M

/-- 43_modular_ops.md R285 to R288: the modular datapaths on reduced operands. -/
def Obligations.ModularDatapathsComputeTheResults : Prop :=
  ∀ (wd : Width) (M x y : Nat), x < M → y < M →
    let nM := nlimbs wd.bits (bitlen M)
    Datapath.modAdd wd.bits nM M x y = (x + y) % M ∧
    Datapath.modSub wd.bits nM M x y = (x + M - y) % M ∧
    Datapath.modNeg wd.bits nM M x = (M - x) % M ∧
    Datapath.modMul wd.bits nM (nM * wd.bits - bitlen M) M x y = x * y % M

/-- 44_montgomery.md R300, R302: the CIOS product and its final select. -/
def Obligations.MontgomeryDatapathComputesTheProduct : Prop :=
  ∀ (wd : Width) (M m0 a b : Nat), M % 2 = 1 → a < M → b < M → m0 < 2 ^ wd.bits →
    (M * m0 + 1) % 2 ^ wd.bits = 0 →
    let nM := nlimbs wd.bits (bitlen M)
    (∀ i, i ≤ nM → Datapath.montLoop wd.bits M m0 a b i < 2 * M) ∧
    Datapath.mont wd.bits nM M m0 a b < M ∧
    Datapath.mont wd.bits nM M m0 a b * 2 ^ (wd.bits * nM) % M = a * b % M

/-- 45_exponentiation.md R322, R323: both exponentiation datapaths give the power. -/
def Obligations.ExponentiationDatapathsGiveThePower : Prop :=
  ∀ (wd : Width) (M m0 ny x Y : Nat), x < M → Y < 2 ^ (ny * wd.bits) →
    let nM := nlimbs wd.bits (bitlen M)
    (M % 2 = 1 → m0 < 2 ^ wd.bits → (M * m0 + 1) % 2 ^ wd.bits = 0 →
      Datapath.expOdd wd.bits nM M m0 ny x Y = x ^ Y % M) ∧
    Datapath.expEven wd.bits nM M ny x Y = x ^ Y % M

/-- From 46_inverse.md R342, R343: the inverse datapaths on coprime operands. The body of the division
loop divDouble that the even one uses and its quotient for `x = 1` are the model's own, PRESUMED (log
entry 11); the binary GCD loop is the spec's from general knowledge (log entry 16). -/
def Obligations.InverseDatapathsInvert : Prop :=
  ∀ (wd : Width) (M x : Nat), x < M → Nat.gcd x M = 1 →
    let nM := nlimbs wd.bits (bitlen M)
    (M % 2 = 1 →
      Datapath.modInvOdd wd.bits nM M x < M ∧
        x * Datapath.modInvOdd wd.bits nM M x % M = 1 % M) ∧
    (M % 2 = 0 →
      Datapath.modInvEven wd.bits nM M x < M ∧
        x * Datapath.modInvEven wd.bits nM M x % M = 1 % M)

/-- 46_inverse.md R347; 41_nat_arithmetic.md R218: the coprimality, comparison and zero-test
datapaths. -/
def Obligations.ScanDatapathsDecide : Prop :=
  ∀ (wd : Width) (t x y : Nat), x < 2 ^ (t * wd.bits) → y < 2 ^ (t * wd.bits) →
    (Datapath.coprime wd.bits t x y = if Nat.gcd x y = 1 then 1 else 0) ∧
    Datapath.cmp wd.bits t x y =
      (if y < x then 1 else 0, if x = y then 1 else 0, if x < y then 1 else 0) ∧
    Datapath.eqZero wd.bits t x = if x = 0 then 1 else 0
end

