-- ==== Sys2Proof/Laws/Flags.lean ====
section
/-!
SUPPORT. Bit lengths, masks, selections and limb kernels: what each computes, once.
-/

namespace Sys2Proof.Machine

/-! ## Truncation and bit length -/

theorem trunc_lt (n v : Nat) : trunc n v < 2 ^ n := Nat.mod_lt _ (Nat.two_pow_pos n)

theorem trunc_eq_self {n v : Nat} (h : v < 2 ^ n) : trunc n v = v := Nat.mod_eq_of_lt h

@[simp] theorem trunc_mod (n v : Nat) : trunc n (v % 2 ^ n) = v % 2 ^ n := by simp [trunc]

@[simp] theorem bitlen_zero : bitlen 0 = 0 := rfl

theorem bitlen_le_iff (v n : Nat) : bitlen v ≤ n ↔ v < 2 ^ n := by
  unfold bitlen
  split
  · next h => subst h; simp
  · next h => rw [Nat.succ_le_iff, Nat.log2_lt h]

theorem lt_two_pow_bitlen (v : Nat) : v < 2 ^ bitlen v := (bitlen_le_iff v _).mp le_rfl

theorem lt_two_pow_of_lt {r m : Nat} (h : r < m) : r < 2 ^ bitlen m :=
  h.trans (lt_two_pow_bitlen m)

theorem two_pow_bitlen_pred_le {v : Nat} (h : v ≠ 0) : 2 ^ (bitlen v - 1) ≤ v := by
  simpa [bitlen, h] using Nat.log2_self_le h

/-! ## Choices and predicates -/

theorem choice_le_one (b : Bool) : choice b ≤ 1 := by cases b <;> decide

theorem ctEq_eq (x y : Nat) : ctEq x y = if x = y then 1 else 0 := by simp [ctEq, choice]

theorem ctGt_eq (x y : Nat) : ctGt x y = if y < x then 1 else 0 := by simp [ctGt, choice]

/-! ## Masks -/

@[simp] theorem wordMask_zero (W : Nat) : wordMask W 0 = 0 := by simp [wordMask]

theorem wordMask_one {W : Nat} (h : 0 < W) : wordMask W 1 = 2 ^ W - 1 := by
  have h1 : 1 < 2 ^ W := Nat.one_lt_two_pow h.ne'
  unfold wordMask
  rw [Nat.mod_eq_of_lt h1, Nat.mod_eq_of_lt (by omega)]

theorem wordMask_lt (W v : Nat) : wordMask W v < 2 ^ W := Nat.mod_lt _ (Nat.two_pow_pos W)

@[simp] theorem limbMask_zero (W t : Nat) : limbMask W 0 t = 0 := by
  induction t with
  | zero => rfl
  | succ t ih => simp [limbMask, ih]

theorem limbMask_one {W : Nat} (h : 0 < W) (t : Nat) : limbMask W 1 t = 2 ^ (t * W) - 1 := by
  induction t with
  | zero => simp [limbMask]
  | succ t ih =>
    have h1 : 1 ≤ 2 ^ (t * W) := Nat.one_le_two_pow
    have h2 : 1 ≤ 2 ^ W := Nat.one_le_two_pow
    have h3 : 2 ^ (t * W) ≤ 2 ^ W * 2 ^ (t * W) := Nat.le_mul_of_pos_left _ h2
    have h4 : 2 ^ ((t + 1) * W) = 2 ^ W * 2 ^ (t * W) := by rw [Nat.succ_mul, Nat.pow_add, Nat.mul_comm]
    rw [limbMask, ih, wordMask_one h, Nat.sub_mul, h4, Nat.one_mul]
    omega

theorem limbMask_lt (W v t : Nat) : limbMask W v t < 2 ^ (t * W) := by
  induction t with
  | zero => simp [limbMask]
  | succ t ih =>
    have h1 := wordMask_lt W v
    have h2 : (wordMask W v + 1) * 2 ^ (t * W) ≤ 2 ^ W * 2 ^ (t * W) := Nat.mul_le_mul_right _ h1
    have h4 : 2 ^ ((t + 1) * W) = 2 ^ W * 2 ^ (t * W) := by rw [Nat.succ_mul, Nat.pow_add, Nat.mul_comm]
    rw [limbMask, h4]
    rw [Nat.add_mul, Nat.one_mul] at h2
    omega

/-- AND with all ones below `2^n` keeps a value below `2^n`. -/
theorem ones_and {n v : Nat} (h : v < 2 ^ n) : (2 ^ n - 1) &&& v = v := by
  rw [Nat.and_comm, Nat.and_two_pow_sub_one_eq_mod, Nat.mod_eq_of_lt h]

@[simp] theorem ctIfElse_zero (W x y : Nat) : ctIfElse W 0 x y = y := by simp [ctIfElse]

theorem ctIfElse_one {W x y : Nat} (hW : 0 < W) (hx : x < 2 ^ W) (hy : y < 2 ^ W) :
    ctIfElse W 1 x y = x := by
  rw [ctIfElse, wordMask_one hW, ones_and (Nat.xor_lt_two_pow hx hy), Nat.xor_comm x y,
    ← Nat.xor_assoc, Nat.xor_self, Nat.zero_xor]

theorem ctIfElse_lt {W x y : Nat} (v : Nat) (hx : x < 2 ^ W) (hy : y < 2 ^ W) :
    ctIfElse W v x y < 2 ^ W :=
  Nat.xor_lt_two_pow hy (Nat.and_lt_two_pow _ (Nat.xor_lt_two_pow hx hy))

@[simp] theorem sel_zero (W x y t : Nat) : sel W 0 x y t = y := by simp [sel]

theorem sel_one {W x y t : Nat} (hW : 0 < W) (hx : x < 2 ^ (t * W)) (hy : y < 2 ^ (t * W)) :
    sel W 1 x y t = x := by
  rw [sel, limbMask_one hW, ones_and (Nat.xor_lt_two_pow hx hy), Nat.xor_comm x y,
    ← Nat.xor_assoc, Nat.xor_self, Nat.zero_xor]

theorem sel_lt {W n x y : Nat} (v t : Nat) (hx : x < 2 ^ n) (hy : y < 2 ^ n) :
    sel W v x y t < 2 ^ n :=
  Nat.xor_lt_two_pow hy (Nat.and_lt_two_pow _ (Nat.xor_lt_two_pow hx hy))

/-! ## Limb counts -/

theorem le_nlimbs_mul {W : Nat} (hW : 0 < W) (a : Nat) : a ≤ nlimbs W a * W := by
  have h := Nat.lt_div_mul_add (a := a + W - 1) hW
  unfold nlimbs
  omega

theorem nlimbs_le_of_le_mul {W a t : Nat} (hW : 0 < W) (h : a ≤ t * W) : nlimbs W a ≤ t := by
  unfold nlimbs
  rw [← Nat.lt_succ_iff, Nat.div_lt_iff_lt_mul hW, Nat.succ_mul]
  omega

/-! ## Shifts -/

theorem shlTrunc_eq (x s cap : Nat) : shlTrunc x s cap = x * 2 ^ s % 2 ^ cap := by
  unfold shlTrunc
  split
  · next h => exact (Nat.mod_eq_zero_of_dvd ((Nat.pow_dvd_pow 2 h).mul_left x)).symm
  · rfl

theorem shrNat_eq (x s : Nat) : shrNat x s = x / 2 ^ s := by
  unfold shrNat
  split
  · next h => exact (Nat.div_eq_of_lt ((bitlen_le_iff x s).mp h)).symm
  · rfl

/-! ## Kernels with a borrow -/

/-- The result and the borrow of `subVV` recompose the difference (40_limb_primitives.md R177). -/
theorem subVV_spec {W k x y : Nat} (hx : x < 2 ^ (k * W)) (hy : y < 2 ^ (k * W)) :
    subVV W k x y = if x < y then (x + 2 ^ (k * W) - y, 1) else (x - y, 0) := by
  unfold subVV choice
  by_cases h : x < y
  · have h1 : ((x : Int) - y) % 2 ^ (k * W) = ((x + 2 ^ (k * W) - y : Nat) : Int) := by
      rw [← Int.add_emod_right, Nat.cast_sub (by omega)]
      push_cast
      rw [Int.emod_eq_of_lt]
      · ring
      · have : (y : Int) < 2 ^ (k * W) := by exact_mod_cast hy
        omega
      · have : (x : Int) < y := by exact_mod_cast h
        omega
    simp [h, h1]
  · have h1 : ((x : Int) - y) % 2 ^ (k * W) = ((x - y : Nat) : Int) := by
      rw [Nat.cast_sub (by omega), Int.emod_eq_of_lt (by omega)]
      have : (x : Int) < 2 ^ (k * W) := by exact_mod_cast hx
      omega
    simp [h, h1]

/-- The identity of 40_limb_primitives.md R181: `n[d].val - w[e]*2^(k*W) = Z - X*y`. -/
theorem mulSubVVW_spec (W k z x y : Nat) (hz : z < 2 ^ (k * W)) :
    ((mulSubVVW W k z x y).1 : Int) - (mulSubVVW W k z x y).2 * 2 ^ (k * W) =
      (z : Int) - x * y := by
  have hB : (0 : Int) < 2 ^ (k * W) := by positivity
  have h0 := Int.emod_nonneg ((z : Int) - x * y) hB.ne'
  have hlt := Int.emod_lt_of_pos ((z : Int) - x * y) hB
  have hzB : (z : Int) < 2 ^ (k * W) := by exact_mod_cast hz
  have hxy : (0 : Int) ≤ x * y := by positivity
  have hdiv := Int.emod_add_mul_ediv ((z : Int) - x * y) (2 ^ (k * W))
  have hq : ((z : Int) - x * y) % 2 ^ (k * W) - ((z : Int) - x * y) =
      -(((z : Int) - x * y) / 2 ^ (k * W)) * 2 ^ (k * W) := by linarith
  have hqn : 0 ≤ -(((z : Int) - x * y) / 2 ^ (k * W)) := by
    have : ((z : Int) - x * y) / 2 ^ (k * W) < 1 := Int.ediv_lt_of_lt_mul hB (by linarith)
    omega
  unfold mulSubVVW
  simp only
  rw [hq, Int.mul_ediv_cancel _ hB.ne', Int.toNat_of_nonneg h0, Int.toNat_of_nonneg hqn]
  linarith

end Sys2Proof.Machine
end

