-- ==== Sys2Proof/Laws/Arith.lean ====
section
/-!
SUPPORT. The computing forms of Machine/Arith.lean are the mathematical notions their names say:
powers, inverses, primality, and the data of the Tonelli-Shanks iteration.
-/

namespace Sys2Proof.Machine

/-! ## Powers -/

theorem powBits_eq (b m n : Nat) : ∀ e, e < 2 ^ n → powBits b m n e = b ^ e % m := by
  induction n with
  | zero => intro e he; obtain rfl : e = 0 := by simpa using he
            simp [powBits]
  | succ n ih =>
    intro e he
    have hsplit : e = e / 2 + e / 2 + e % 2 := by omega
    have hsq : powBits b m n (e / 2) * powBits b m n (e / 2) % m = b ^ (e / 2 + e / 2) % m := by
      rw [ih (e / 2) (by rw [Nat.pow_succ] at he; omega), ← Nat.mul_mod, ← Nat.pow_add]
    rw [powBits]
    simp only [hsq]
    split
    · next h =>
      conv_rhs => rw [hsplit, h, Nat.pow_succ, Nat.mul_mod]
      conv_lhs => rw [Nat.mul_mod, Nat.mod_mod]
    · next h =>
      have h0 : e % 2 = 0 := by omega
      conv_rhs => rw [hsplit, h0, Nat.add_zero]

/-- `powMod` is the modular power (45_exponentiation.md R321). -/
theorem powMod_eq (b e m : Nat) : powMod b e m = b ^ e % m :=
  powBits_eq b m _ e (lt_two_pow_bitlen e)

/-! ## Inverse -/

theorem euclid_spec (a m : Nat) (hm : 0 < m) : ∀ fuel r0 r1 t0 t1, r1 ≤ fuel → t0 < m → t1 < m →
    t0 * a ≡ r0 [MOD m] → t1 * a ≡ r1 [MOD m] →
    euclid m fuel r0 r1 t0 t1 < m ∧ euclid m fuel r0 r1 t0 t1 * a ≡ Nat.gcd r0 r1 [MOD m] := by
  intro fuel
  induction fuel with
  | zero =>
    intro r0 r1 t0 t1 hf h0 _ hr0 _
    obtain rfl : r1 = 0 := by omega
    simpa [euclid] using ⟨h0, hr0⟩
  | succ fuel ih =>
    intro r0 r1 t0 t1 hf h0 h1 hr0 hr1
    rw [euclid]
    split
    · next h => subst h; simpa using ⟨h0, hr0⟩
    · next h =>
      have hlt : r0 % r1 < r1 := Nat.mod_lt _ (Nat.pos_of_ne_zero h)
      have key : (t0 + (m - r0 / r1 * t1 % m)) % m * a ≡ r0 % r1 [MOD m] := by
        apply Nat.ModEq.add_right_cancel' (r0 / r1 * r1)
        have e1 : r0 % r1 + r0 / r1 * r1 = r0 := by rw [Nat.mul_comm]; exact Nat.mod_add_div r0 r1
        rw [e1]
        have hle : r0 / r1 * t1 % m ≤ m := (Nat.mod_lt _ hm).le
        calc (t0 + (m - r0 / r1 * t1 % m)) % m * a + r0 / r1 * r1
            ≡ (t0 + (m - r0 / r1 * t1 % m)) * a + r0 / r1 * (t1 * a) [MOD m] :=
              ((Nat.mod_modEq _ _).mul_right a).add (hr1.symm.mul_left _)
          _ ≡ (t0 + (m - r0 / r1 * t1 % m)) * a + r0 / r1 * t1 % m * a [MOD m] := by
              rw [← Nat.mul_assoc]
              exact ((Nat.mod_modEq _ _).symm.mul_right a).add_left _
          _ = t0 * a + m * a := by
              rw [← Nat.add_mul, Nat.add_assoc, Nat.sub_add_cancel hle, Nat.add_mul]
          _ ≡ r0 [MOD m] := by
              have : t0 * a + m * a ≡ t0 * a [MOD m] := by simp [Nat.ModEq]
              exact this.trans hr0
      have hg : Nat.gcd r0 r1 = Nat.gcd r1 (r0 % r1) := by
        rw [Nat.gcd_comm r0 r1, Nat.gcd_rec r1 r0, Nat.gcd_comm]
      rw [hg]
      exact ih r1 (r0 % r1) t1 _ (by omega) h1 (Nat.mod_lt _ hm) hr1 key

theorem inv_lt (a : Nat) {m : Nat} (hm : 0 < m) : inv a m < m :=
  (euclid_spec a m hm m m (a % m) 0 (1 % m) (Nat.mod_lt _ hm).le hm (Nat.mod_lt _ hm)
    (by simp [Nat.ModEq]) (by simp [Nat.ModEq])).1

/-- `inv(a, m)` is the inverse of 00_scope.md R10 whenever there is one. -/
theorem mul_inv_mod {a m : Nat} (hm : 0 < m) (h : Nat.gcd a m = 1) :
    a * inv a m % m = 1 % m := by
  have hs := (euclid_spec a m hm m m (a % m) 0 (1 % m) (Nat.mod_lt _ hm).le hm (Nat.mod_lt _ hm)
    (by simp [Nat.ModEq]) (by simp [Nat.ModEq])).2
  rw [Nat.gcd_comm m, ← Nat.gcd_rec, Nat.gcd_comm, h] at hs
  rw [Nat.mul_comm]
  exact hs

/-- The inverse is unique (00_scope.md R10). -/
theorem inv_unique {a m r : Nat} (h : Nat.gcd a m = 1) (hr : r < m) (hmul : a * r % m = 1 % m) :
    r = inv a m := by
  have hm : 0 < m := by omega
  have h1 : a * r ≡ a * inv a m [MOD m] := hmul.trans (mul_inv_mod hm h).symm
  have h2 : r ≡ inv a m [MOD m] := Nat.ModEq.cancel_left_of_coprime (by rwa [Nat.gcd_comm]) h1
  exact Nat.ModEq.eq_of_lt_of_lt h2 hr (inv_lt a hm)

/-! ## Primality -/

theorem noDivisorFrom_iff (p : Nat) : ∀ fuel d, p < d + fuel → 0 < d →
    (noDivisorFrom p fuel d = true ↔ ∀ e, d ≤ e → e * e ≤ p → ¬ e ∣ p) := by
  intro fuel
  induction fuel with
  | zero =>
    intro d hf hd
    refine ⟨fun _ e he hee => ?_, fun _ => rfl⟩
    have := Nat.le_mul_self e
    omega
  | succ fuel ih =>
    intro d hf hd
    rw [noDivisorFrom]
    split
    · next h =>
      refine ⟨fun _ e he hee => ?_, fun _ => rfl⟩
      have := Nat.mul_le_mul he he
      omega
    · next h =>
      split
      · next h0 =>
        simp only [Bool.false_eq_true, false_iff, not_forall]
        exact ⟨d, le_rfl, by omega, not_not.mpr (Nat.dvd_of_mod_eq_zero h0)⟩
      · next h0 =>
        rw [ih (d + 1) (by omega) (by omega)]
        refine ⟨fun hall e he hee => ?_, fun hall e he hee => hall e (by omega) hee⟩
        rcases Nat.eq_or_lt_of_le he with rfl | hlt
        · exact fun hdvd => h0 (Nat.mod_eq_zero_of_dvd hdvd)
        · exact hall e hlt hee

/-- `isPrime` is primality (47_modsqrt.md R360). -/
theorem isPrime_iff (p : Nat) : isPrime p = true ↔ Nat.Prime p := by
  unfold isPrime
  rw [Bool.and_eq_true, decide_eq_true_iff, noDivisorFrom_iff p p 2 (by omega) (by omega),
    Nat.prime_def_le_sqrt]
  simp only [Nat.le_sqrt]

/-! ## The powers of two in `p - 1` -/

theorem splitTwos_spec : ∀ fuel x s, 0 < x → x ≤ fuel →
    (splitTwos fuel x s).1 % 2 = 1 ∧ s ≤ (splitTwos fuel x s).2 ∧
      (splitTwos fuel x s).1 * 2 ^ ((splitTwos fuel x s).2 - s) = x := by
  intro fuel
  induction fuel with
  | zero => intro x s h0 h; omega
  | succ fuel ih =>
    intro x s h0 h
    rw [splitTwos]
    split
    · next he =>
      obtain ⟨h1, h2, h3⟩ := ih (x / 2) (s + 1) (by omega) (by omega)
      refine ⟨h1, by omega, ?_⟩
      have hs : (splitTwos fuel (x / 2) (s + 1)).2 - s =
          (splitTwos fuel (x / 2) (s + 1)).2 - (s + 1) + 1 := by omega
      rw [hs, Nat.pow_succ, ← Nat.mul_assoc, h3]
      omega
    · next he => exact ⟨by omega, le_rfl, by simp⟩

end Sys2Proof.Machine
end

