-- ==== Sys2Proof/Laws/State.lean ====
section
/-!
SUPPORT. One lemma per field per update of State, so that no later proof unfolds a record update.
-/

namespace Sys2Proof.Machine

variable (s : State)

/-! ## Register writes -/

@[simp] theorem State.setN_params (i : NReg) (a v : Nat) (t : Option MReg) : (s.setN i a v t).params = s.params := rfl
@[simp] theorem State.setN_n (i : NReg) (a v : Nat) (t : Option MReg) : (s.setN i a v t).n = s.n.set i.val ⟨a, trunc a v, t⟩ := rfl
@[simp] theorem State.setN_w (i : NReg) (a v : Nat) (t : Option MReg) : (s.setN i a v t).w = s.w := rfl
@[simp] theorem State.setN_m (i : NReg) (a v : Nat) (t : Option MReg) : (s.setN i a v t).m = s.m := rfl
@[simp] theorem State.setN_ie (i : NReg) (a v : Nat) (t : Option MReg) : (s.setN i a v t).ie = s.ie := rfl
@[simp] theorem State.setN_busy (i : NReg) (a v : Nat) (t : Option MReg) : (s.setN i a v t).busy = s.busy := rfl
@[simp] theorem State.setN_done (i : NReg) (a v : Nat) (t : Option MReg) : (s.setN i a v t).done = s.done := rfl
@[simp] theorem State.setN_err (i : NReg) (a v : Nat) (t : Option MReg) : (s.setN i a v t).err = s.err := rfl
@[simp] theorem State.setN_cmdovr (i : NReg) (a v : Nat) (t : Option MReg) : (s.setN i a v t).cmdovr = s.cmdovr := rfl
@[simp] theorem State.setN_accerr (i : NReg) (a v : Nat) (t : Option MReg) : (s.setN i a v t).accerr = s.accerr := rfl
@[simp] theorem State.setN_errcode (i : NReg) (a v : Nat) (t : Option MReg) : (s.setN i a v t).errcode = s.errcode := rfl
@[simp] theorem State.setN_cmd (i : NReg) (a v : Nat) (t : Option MReg) : (s.setN i a v t).cmd = s.cmd := rfl
@[simp] theorem State.setN_errcmd (i : NReg) (a v : Nat) (t : Option MReg) : (s.setN i a v t).errcmd = s.errcmd := rfl
@[simp] theorem State.setN_cmdcnt (i : NReg) (a v : Nat) (t : Option MReg) : (s.setN i a v t).cmdcnt = s.cmdcnt := rfl
@[simp] theorem State.setN_script (i : NReg) (a v : Nat) (t : Option MReg) : (s.setN i a v t).script = s.script := rfl
@[simp] theorem State.setN_reply (i : NReg) (a v : Nat) (t : Option MReg) : (s.setN i a v t).reply = s.reply := rfl
@[simp] theorem State.setN_faultLog (i : NReg) (a v : Nat) (t : Option MReg) : (s.setN i a v t).faultLog = s.faultLog := rfl
@[simp] theorem State.setN_draws (i : NReg) (a v : Nat) (t : Option MReg) : (s.setN i a v t).draws = s.draws := rfl

@[simp] theorem State.setW_params (i : WReg) (v : Nat) : (s.setW i v).params = s.params := rfl
@[simp] theorem State.setW_n (i : WReg) (v : Nat) : (s.setW i v).n = s.n := rfl
@[simp] theorem State.setW_w (i : WReg) (v : Nat) : (s.setW i v).w = s.w.set i.val (trunc s.W v) := rfl
@[simp] theorem State.setW_m (i : WReg) (v : Nat) : (s.setW i v).m = s.m := rfl
@[simp] theorem State.setW_ie (i : WReg) (v : Nat) : (s.setW i v).ie = s.ie := rfl
@[simp] theorem State.setW_busy (i : WReg) (v : Nat) : (s.setW i v).busy = s.busy := rfl
@[simp] theorem State.setW_done (i : WReg) (v : Nat) : (s.setW i v).done = s.done := rfl
@[simp] theorem State.setW_err (i : WReg) (v : Nat) : (s.setW i v).err = s.err := rfl
@[simp] theorem State.setW_cmdovr (i : WReg) (v : Nat) : (s.setW i v).cmdovr = s.cmdovr := rfl
@[simp] theorem State.setW_accerr (i : WReg) (v : Nat) : (s.setW i v).accerr = s.accerr := rfl
@[simp] theorem State.setW_errcode (i : WReg) (v : Nat) : (s.setW i v).errcode = s.errcode := rfl
@[simp] theorem State.setW_cmd (i : WReg) (v : Nat) : (s.setW i v).cmd = s.cmd := rfl
@[simp] theorem State.setW_errcmd (i : WReg) (v : Nat) : (s.setW i v).errcmd = s.errcmd := rfl
@[simp] theorem State.setW_cmdcnt (i : WReg) (v : Nat) : (s.setW i v).cmdcnt = s.cmdcnt := rfl
@[simp] theorem State.setW_script (i : WReg) (v : Nat) : (s.setW i v).script = s.script := rfl
@[simp] theorem State.setW_reply (i : WReg) (v : Nat) : (s.setW i v).reply = s.reply := rfl
@[simp] theorem State.setW_faultLog (i : WReg) (v : Nat) : (s.setW i v).faultLog = s.faultLog := rfl
@[simp] theorem State.setW_draws (i : WReg) (v : Nat) : (s.setW i v).draws = s.draws := rfl

@[simp] theorem State.setM_params (k : MReg) (r : ModReg) : (s.setM k r).params = s.params := rfl
@[simp] theorem State.setM_n (k : MReg) (r : ModReg) : (s.setM k r).n = s.n.map fun x => if x.tag = some k then { x with tag := none } else x := rfl
@[simp] theorem State.setM_w (k : MReg) (r : ModReg) : (s.setM k r).w = s.w := rfl
@[simp] theorem State.setM_m (k : MReg) (r : ModReg) : (s.setM k r).m = s.m.set k.val r := rfl
@[simp] theorem State.setM_ie (k : MReg) (r : ModReg) : (s.setM k r).ie = s.ie := rfl
@[simp] theorem State.setM_busy (k : MReg) (r : ModReg) : (s.setM k r).busy = s.busy := rfl
@[simp] theorem State.setM_done (k : MReg) (r : ModReg) : (s.setM k r).done = s.done := rfl
@[simp] theorem State.setM_err (k : MReg) (r : ModReg) : (s.setM k r).err = s.err := rfl
@[simp] theorem State.setM_cmdovr (k : MReg) (r : ModReg) : (s.setM k r).cmdovr = s.cmdovr := rfl
@[simp] theorem State.setM_accerr (k : MReg) (r : ModReg) : (s.setM k r).accerr = s.accerr := rfl
@[simp] theorem State.setM_errcode (k : MReg) (r : ModReg) : (s.setM k r).errcode = s.errcode := rfl
@[simp] theorem State.setM_cmd (k : MReg) (r : ModReg) : (s.setM k r).cmd = s.cmd := rfl
@[simp] theorem State.setM_errcmd (k : MReg) (r : ModReg) : (s.setM k r).errcmd = s.errcmd := rfl
@[simp] theorem State.setM_cmdcnt (k : MReg) (r : ModReg) : (s.setM k r).cmdcnt = s.cmdcnt := rfl
@[simp] theorem State.setM_script (k : MReg) (r : ModReg) : (s.setM k r).script = s.script := rfl
@[simp] theorem State.setM_reply (k : MReg) (r : ModReg) : (s.setM k r).reply = s.reply := rfl
@[simp] theorem State.setM_faultLog (k : MReg) (r : ModReg) : (s.setM k r).faultLog = s.faultLog := rfl
@[simp] theorem State.setM_draws (k : MReg) (r : ModReg) : (s.setM k r).draws = s.draws := rfl

@[simp] theorem State.drawn_params : (s.drawn).params = s.params := rfl
@[simp] theorem State.drawn_n : (s.drawn).n = s.n := rfl
@[simp] theorem State.drawn_w : (s.drawn).w = s.w := rfl
@[simp] theorem State.drawn_m : (s.drawn).m = s.m := rfl
@[simp] theorem State.drawn_ie : (s.drawn).ie = s.ie := rfl
@[simp] theorem State.drawn_busy : (s.drawn).busy = s.busy := rfl
@[simp] theorem State.drawn_done : (s.drawn).done = s.done := rfl
@[simp] theorem State.drawn_err : (s.drawn).err = s.err := rfl
@[simp] theorem State.drawn_cmdovr : (s.drawn).cmdovr = s.cmdovr := rfl
@[simp] theorem State.drawn_accerr : (s.drawn).accerr = s.accerr := rfl
@[simp] theorem State.drawn_errcode : (s.drawn).errcode = s.errcode := rfl
@[simp] theorem State.drawn_cmd : (s.drawn).cmd = s.cmd := rfl
@[simp] theorem State.drawn_errcmd : (s.drawn).errcmd = s.errcmd := rfl
@[simp] theorem State.drawn_cmdcnt : (s.drawn).cmdcnt = s.cmdcnt := rfl
@[simp] theorem State.drawn_script : (s.drawn).script = s.script := rfl
@[simp] theorem State.drawn_reply : (s.drawn).reply = s.reply := rfl
@[simp] theorem State.drawn_faultLog : (s.drawn).faultLog = s.faultLog := rfl
@[simp] theorem State.drawn_draws : (s.drawn).draws = s.draws + 1 := rfl

/-! ## Completion, error, acknowledgement -/

@[simp] theorem State.complete_params : (s.complete).params = s.params := rfl
@[simp] theorem State.complete_n : (s.complete).n = s.n := rfl
@[simp] theorem State.complete_w : (s.complete).w = s.w := rfl
@[simp] theorem State.complete_m : (s.complete).m = s.m := rfl
@[simp] theorem State.complete_ie : (s.complete).ie = s.ie := rfl
@[simp] theorem State.complete_busy : (s.complete).busy = false := rfl
@[simp] theorem State.complete_done : (s.complete).done = true := rfl
@[simp] theorem State.complete_err : (s.complete).err = s.err := rfl
@[simp] theorem State.complete_cmdovr : (s.complete).cmdovr = s.cmdovr := rfl
@[simp] theorem State.complete_accerr : (s.complete).accerr = s.accerr := rfl
@[simp] theorem State.complete_errcode : (s.complete).errcode = s.errcode := rfl
@[simp] theorem State.complete_cmd : (s.complete).cmd = s.cmd := rfl
@[simp] theorem State.complete_errcmd : (s.complete).errcmd = s.errcmd := rfl
@[simp] theorem State.complete_cmdcnt : (s.complete).cmdcnt = s.cmdcnt + 1 := rfl
@[simp] theorem State.complete_script : (s.complete).script = s.script := rfl
@[simp] theorem State.complete_reply : (s.complete).reply = s.reply := rfl
@[simp] theorem State.complete_faultLog : (s.complete).faultLog = s.faultLog := rfl
@[simp] theorem State.complete_draws : (s.complete).draws = s.draws := rfl

@[simp] theorem State.fail_params (e : ErrCode) : (s.fail e).params = s.params := rfl
@[simp] theorem State.fail_n (e : ErrCode) : (s.fail e).n = s.n := rfl
@[simp] theorem State.fail_w (e : ErrCode) : (s.fail e).w = s.w := rfl
@[simp] theorem State.fail_m (e : ErrCode) : (s.fail e).m = s.m := rfl
@[simp] theorem State.fail_ie (e : ErrCode) : (s.fail e).ie = s.ie := rfl
@[simp] theorem State.fail_busy (e : ErrCode) : (s.fail e).busy = false := rfl
@[simp] theorem State.fail_done (e : ErrCode) : (s.fail e).done = true := rfl
@[simp] theorem State.fail_err (e : ErrCode) : (s.fail e).err = true := rfl
@[simp] theorem State.fail_cmdovr (e : ErrCode) : (s.fail e).cmdovr = s.cmdovr := rfl
@[simp] theorem State.fail_accerr (e : ErrCode) : (s.fail e).accerr = s.accerr := rfl
@[simp] theorem State.fail_errcode (e : ErrCode) : (s.fail e).errcode = e := rfl
@[simp] theorem State.fail_cmd (e : ErrCode) : (s.fail e).cmd = s.cmd := rfl
@[simp] theorem State.fail_errcmd (e : ErrCode) : (s.fail e).errcmd = s.cmd := rfl
@[simp] theorem State.fail_cmdcnt (e : ErrCode) : (s.fail e).cmdcnt = s.cmdcnt + 1 := rfl
@[simp] theorem State.fail_script (e : ErrCode) : (s.fail e).script = s.script := rfl
@[simp] theorem State.fail_reply (e : ErrCode) : (s.fail e).reply = s.reply := rfl
@[simp] theorem State.fail_faultLog (e : ErrCode) : (s.fail e).faultLog = s.faultLog ++ [.command e s.cmd] := rfl
@[simp] theorem State.fail_draws (e : ErrCode) : (s.fail e).draws = s.draws := rfl

@[simp] theorem State.ackErr_params : (s.ackErr).params = s.params := rfl
@[simp] theorem State.ackErr_n : (s.ackErr).n = s.n := rfl
@[simp] theorem State.ackErr_w : (s.ackErr).w = s.w := rfl
@[simp] theorem State.ackErr_m : (s.ackErr).m = s.m := rfl
@[simp] theorem State.ackErr_ie : (s.ackErr).ie = s.ie := rfl
@[simp] theorem State.ackErr_busy : (s.ackErr).busy = s.busy := rfl
@[simp] theorem State.ackErr_done : (s.ackErr).done = s.done := rfl
@[simp] theorem State.ackErr_err : (s.ackErr).err = false := rfl
@[simp] theorem State.ackErr_cmdovr : (s.ackErr).cmdovr = s.cmdovr := rfl
@[simp] theorem State.ackErr_accerr : (s.ackErr).accerr = s.accerr := rfl
@[simp] theorem State.ackErr_errcode : (s.ackErr).errcode = .none := rfl
@[simp] theorem State.ackErr_cmd : (s.ackErr).cmd = s.cmd := rfl
@[simp] theorem State.ackErr_errcmd : (s.ackErr).errcmd = s.errcmd := rfl
@[simp] theorem State.ackErr_cmdcnt : (s.ackErr).cmdcnt = s.cmdcnt := rfl
@[simp] theorem State.ackErr_script : (s.ackErr).script = s.script := rfl
@[simp] theorem State.ackErr_reply : (s.ackErr).reply = s.reply := rfl
@[simp] theorem State.ackErr_faultLog : (s.ackErr).faultLog = s.faultLog := rfl
@[simp] theorem State.ackErr_draws : (s.ackErr).draws = s.draws := rfl

/-! ## Reset -/

@[simp] theorem State.engineReset_params : (s.engineReset).params = s.params := rfl
@[simp] theorem State.engineReset_n : (s.engineReset).n = Vector.replicate 16 NatReg.empty := rfl
@[simp] theorem State.engineReset_w : (s.engineReset).w = Vector.replicate 16 0 := rfl
@[simp] theorem State.engineReset_m : (s.engineReset).m = Vector.replicate 4 ModReg.empty := rfl
@[simp] theorem State.engineReset_ie : (s.engineReset).ie = false := rfl
@[simp] theorem State.engineReset_busy : (s.engineReset).busy = false := rfl
@[simp] theorem State.engineReset_done : (s.engineReset).done = false := rfl
@[simp] theorem State.engineReset_err : (s.engineReset).err = false := rfl
@[simp] theorem State.engineReset_cmdovr : (s.engineReset).cmdovr = false := rfl
@[simp] theorem State.engineReset_accerr : (s.engineReset).accerr = false := rfl
@[simp] theorem State.engineReset_errcode : (s.engineReset).errcode = .none := rfl
@[simp] theorem State.engineReset_cmd : (s.engineReset).cmd = 0 := rfl
@[simp] theorem State.engineReset_errcmd : (s.engineReset).errcmd = 0 := rfl
@[simp] theorem State.engineReset_cmdcnt : (s.engineReset).cmdcnt = 0 := rfl
@[simp] theorem State.engineReset_script : (s.engineReset).script = s.script := rfl
@[simp] theorem State.engineReset_reply : (s.engineReset).reply = s.reply := rfl
@[simp] theorem State.engineReset_faultLog : (s.engineReset).faultLog = s.faultLog := rfl
@[simp] theorem State.engineReset_draws : (s.engineReset).draws = s.draws := rfl

/-! ## The host side -/

@[simp] theorem State.answer_params (v : BusWord) : (s.answer v).params = s.params := rfl
@[simp] theorem State.answer_n (v : BusWord) : (s.answer v).n = s.n := rfl
@[simp] theorem State.answer_w (v : BusWord) : (s.answer v).w = s.w := rfl
@[simp] theorem State.answer_m (v : BusWord) : (s.answer v).m = s.m := rfl
@[simp] theorem State.answer_ie (v : BusWord) : (s.answer v).ie = s.ie := rfl
@[simp] theorem State.answer_busy (v : BusWord) : (s.answer v).busy = s.busy := rfl
@[simp] theorem State.answer_done (v : BusWord) : (s.answer v).done = s.done := rfl
@[simp] theorem State.answer_err (v : BusWord) : (s.answer v).err = s.err := rfl
@[simp] theorem State.answer_cmdovr (v : BusWord) : (s.answer v).cmdovr = s.cmdovr := rfl
@[simp] theorem State.answer_accerr (v : BusWord) : (s.answer v).accerr = s.accerr := rfl
@[simp] theorem State.answer_errcode (v : BusWord) : (s.answer v).errcode = s.errcode := rfl
@[simp] theorem State.answer_cmd (v : BusWord) : (s.answer v).cmd = s.cmd := rfl
@[simp] theorem State.answer_errcmd (v : BusWord) : (s.answer v).errcmd = s.errcmd := rfl
@[simp] theorem State.answer_cmdcnt (v : BusWord) : (s.answer v).cmdcnt = s.cmdcnt := rfl
@[simp] theorem State.answer_script (v : BusWord) : (s.answer v).script = s.script := rfl
@[simp] theorem State.answer_reply (v : BusWord) : (s.answer v).reply = some ⟨v, false⟩ := rfl
@[simp] theorem State.answer_faultLog (v : BusWord) : (s.answer v).faultLog = s.faultLog := rfl
@[simp] theorem State.answer_draws (v : BusWord) : (s.answer v).draws = s.draws := rfl

@[simp] theorem State.dropFileWrite_params : (s.dropFileWrite).params = s.params := rfl
@[simp] theorem State.dropFileWrite_n : (s.dropFileWrite).n = s.n := rfl
@[simp] theorem State.dropFileWrite_w : (s.dropFileWrite).w = s.w := rfl
@[simp] theorem State.dropFileWrite_m : (s.dropFileWrite).m = s.m := rfl
@[simp] theorem State.dropFileWrite_ie : (s.dropFileWrite).ie = s.ie := rfl
@[simp] theorem State.dropFileWrite_busy : (s.dropFileWrite).busy = s.busy := rfl
@[simp] theorem State.dropFileWrite_done : (s.dropFileWrite).done = s.done := rfl
@[simp] theorem State.dropFileWrite_err : (s.dropFileWrite).err = s.err := rfl
@[simp] theorem State.dropFileWrite_cmdovr : (s.dropFileWrite).cmdovr = s.cmdovr := rfl
@[simp] theorem State.dropFileWrite_accerr : (s.dropFileWrite).accerr = true := rfl
@[simp] theorem State.dropFileWrite_errcode : (s.dropFileWrite).errcode = s.errcode := rfl
@[simp] theorem State.dropFileWrite_cmd : (s.dropFileWrite).cmd = s.cmd := rfl
@[simp] theorem State.dropFileWrite_errcmd : (s.dropFileWrite).errcmd = s.errcmd := rfl
@[simp] theorem State.dropFileWrite_cmdcnt : (s.dropFileWrite).cmdcnt = s.cmdcnt := rfl
@[simp] theorem State.dropFileWrite_script : (s.dropFileWrite).script = s.script := rfl
@[simp] theorem State.dropFileWrite_reply : (s.dropFileWrite).reply = s.reply := rfl
@[simp] theorem State.dropFileWrite_faultLog : (s.dropFileWrite).faultLog = s.faultLog := rfl
@[simp] theorem State.dropFileWrite_draws : (s.dropFileWrite).draws = s.draws := rfl

@[simp] theorem State.refuseAccess_params (x : Access) : (s.refuseAccess x).params = s.params := rfl
@[simp] theorem State.refuseAccess_n (x : Access) : (s.refuseAccess x).n = s.n := rfl
@[simp] theorem State.refuseAccess_w (x : Access) : (s.refuseAccess x).w = s.w := rfl
@[simp] theorem State.refuseAccess_m (x : Access) : (s.refuseAccess x).m = s.m := rfl
@[simp] theorem State.refuseAccess_ie (x : Access) : (s.refuseAccess x).ie = s.ie := rfl
@[simp] theorem State.refuseAccess_busy (x : Access) : (s.refuseAccess x).busy = s.busy := rfl
@[simp] theorem State.refuseAccess_done (x : Access) : (s.refuseAccess x).done = s.done := rfl
@[simp] theorem State.refuseAccess_err (x : Access) : (s.refuseAccess x).err = s.err := rfl
@[simp] theorem State.refuseAccess_cmdovr (x : Access) : (s.refuseAccess x).cmdovr = s.cmdovr := rfl
@[simp] theorem State.refuseAccess_accerr (x : Access) : (s.refuseAccess x).accerr = s.accerr := rfl
@[simp] theorem State.refuseAccess_errcode (x : Access) : (s.refuseAccess x).errcode = s.errcode := rfl
@[simp] theorem State.refuseAccess_cmd (x : Access) : (s.refuseAccess x).cmd = s.cmd := rfl
@[simp] theorem State.refuseAccess_errcmd (x : Access) : (s.refuseAccess x).errcmd = s.errcmd := rfl
@[simp] theorem State.refuseAccess_cmdcnt (x : Access) : (s.refuseAccess x).cmdcnt = s.cmdcnt := rfl
@[simp] theorem State.refuseAccess_script (x : Access) : (s.refuseAccess x).script = s.script := rfl
@[simp] theorem State.refuseAccess_reply (x : Access) : (s.refuseAccess x).reply = some ⟨0, true⟩ := rfl
@[simp] theorem State.refuseAccess_faultLog (x : Access) : (s.refuseAccess x).faultLog = s.faultLog ++ [.bus x] := rfl
@[simp] theorem State.refuseAccess_draws (x : Access) : (s.refuseAccess x).draws = s.draws := rfl

@[simp] theorem State.withCommand_params (v : BusWord) : (s.withCommand v).params = s.params := rfl
@[simp] theorem State.withCommand_n (v : BusWord) : (s.withCommand v).n = s.n := rfl
@[simp] theorem State.withCommand_w (v : BusWord) : (s.withCommand v).w = s.w := rfl
@[simp] theorem State.withCommand_m (v : BusWord) : (s.withCommand v).m = s.m := rfl
@[simp] theorem State.withCommand_ie (v : BusWord) : (s.withCommand v).ie = s.ie := rfl
@[simp] theorem State.withCommand_busy (v : BusWord) : (s.withCommand v).busy = true := rfl
@[simp] theorem State.withCommand_done (v : BusWord) : (s.withCommand v).done = false := rfl
@[simp] theorem State.withCommand_err (v : BusWord) : (s.withCommand v).err = s.err := rfl
@[simp] theorem State.withCommand_cmdovr (v : BusWord) : (s.withCommand v).cmdovr = s.cmdovr := rfl
@[simp] theorem State.withCommand_accerr (v : BusWord) : (s.withCommand v).accerr = s.accerr := rfl
@[simp] theorem State.withCommand_errcode (v : BusWord) : (s.withCommand v).errcode = s.errcode := rfl
@[simp] theorem State.withCommand_cmd (v : BusWord) : (s.withCommand v).cmd = v := rfl
@[simp] theorem State.withCommand_errcmd (v : BusWord) : (s.withCommand v).errcmd = s.errcmd := rfl
@[simp] theorem State.withCommand_cmdcnt (v : BusWord) : (s.withCommand v).cmdcnt = s.cmdcnt := rfl
@[simp] theorem State.withCommand_script (v : BusWord) : (s.withCommand v).script = .engine :: s.script := rfl
@[simp] theorem State.withCommand_reply (v : BusWord) : (s.withCommand v).reply = s.reply := rfl
@[simp] theorem State.withCommand_faultLog (v : BusWord) : (s.withCommand v).faultLog = s.faultLog := rfl
@[simp] theorem State.withCommand_draws (v : BusWord) : (s.withCommand v).draws = s.draws := rfl

end Sys2Proof.Machine
end

