-- ==== Sys2Proof/Laws/Ops.lean ====
section
/-!
SUPPORT. What reading a register gives after each write, and what the parameters are after each
update.
-/

namespace Sys2Proof.Machine

variable (s : State)

/-! ## A register after a write to its own file -/

theorem State.nreg_setN (i j : NReg) (a v : Nat) (t : Option MReg) :
    (s.setN i a v t).nreg j = if j = i then ⟨a, trunc a v, t⟩ else s.nreg j := by
  simp only [State.nreg, State.setN, Vector.getElem_set, Fin.ext_iff, eq_comm]

@[simp] theorem State.nreg_setN_self (i : NReg) (a v : Nat) (t : Option MReg) :
    (s.setN i a v t).nreg i = ⟨a, trunc a v, t⟩ := by simp [State.nreg_setN]

theorem State.nreg_setN_ne {i j : NReg} (h : j ≠ i) (a v : Nat) (t : Option MReg) :
    (s.setN i a v t).nreg j = s.nreg j := by simp [State.nreg_setN, h]

theorem State.wreg_setW (i j : WReg) (v : Nat) :
    (s.setW i v).wreg j = if j = i then trunc s.W v else s.wreg j := by
  simp only [State.wreg, State.setW, Vector.getElem_set, Fin.ext_iff, eq_comm]

@[simp] theorem State.wreg_setW_self (i : WReg) (v : Nat) :
    (s.setW i v).wreg i = trunc s.W v := by simp [State.wreg_setW]

theorem State.wreg_setW_ne {i j : WReg} (h : j ≠ i) (v : Nat) :
    (s.setW i v).wreg j = s.wreg j := by simp [State.wreg_setW, h]

theorem State.mreg_setM (k j : MReg) (r : ModReg) :
    (s.setM k r).mreg j = if j = k then r else s.mreg j := by
  simp only [State.mreg, State.setM, Vector.getElem_set, Fin.ext_iff, eq_comm]

@[simp] theorem State.mreg_setM_self (k : MReg) (r : ModReg) : (s.setM k r).mreg k = r := by
  simp [State.mreg_setM]

theorem State.mreg_setM_ne {k j : MReg} (h : j ≠ k) (r : ModReg) :
    (s.setM k r).mreg j = s.mreg j := by simp [State.mreg_setM, h]

/-- A modulus write drops exactly the tags that name the register (10_state.md R34). -/
theorem State.nreg_setM (k : MReg) (r : ModReg) (i : NReg) :
    (s.setM k r).nreg i =
      if (s.nreg i).tag = some k then { s.nreg i with tag := none } else s.nreg i := by
  simp only [State.nreg, State.setM, Vector.getElem_map]
  by_cases h : (s.n[i.val]).tag = some k <;> simp [h]

/-! ## A register after an update elsewhere -/

@[simp] theorem State.wreg_setN (i : NReg) (a v : Nat) (t : Option MReg) (j : WReg) : (s.setN i a v t).wreg j = s.wreg j := rfl
@[simp] theorem State.mreg_setN (i : NReg) (a v : Nat) (t : Option MReg) (j : MReg) : (s.setN i a v t).mreg j = s.mreg j := rfl
@[simp] theorem State.nreg_setW (i : WReg) (v : Nat) (j : NReg) : (s.setW i v).nreg j = s.nreg j := rfl
@[simp] theorem State.mreg_setW (i : WReg) (v : Nat) (j : MReg) : (s.setW i v).mreg j = s.mreg j := rfl
@[simp] theorem State.wreg_setM (k : MReg) (r : ModReg) (j : WReg) : (s.setM k r).wreg j = s.wreg j := rfl
@[simp] theorem State.nreg_drawn (j : NReg) : (s.drawn).nreg j = s.nreg j := rfl
@[simp] theorem State.wreg_drawn (j : WReg) : (s.drawn).wreg j = s.wreg j := rfl
@[simp] theorem State.mreg_drawn (j : MReg) : (s.drawn).mreg j = s.mreg j := rfl
@[simp] theorem State.nreg_complete (j : NReg) : (s.complete).nreg j = s.nreg j := rfl
@[simp] theorem State.wreg_complete (j : WReg) : (s.complete).wreg j = s.wreg j := rfl
@[simp] theorem State.mreg_complete (j : MReg) : (s.complete).mreg j = s.mreg j := rfl
@[simp] theorem State.nreg_fail (e : ErrCode) (j : NReg) : (s.fail e).nreg j = s.nreg j := rfl
@[simp] theorem State.wreg_fail (e : ErrCode) (j : WReg) : (s.fail e).wreg j = s.wreg j := rfl
@[simp] theorem State.mreg_fail (e : ErrCode) (j : MReg) : (s.fail e).mreg j = s.mreg j := rfl
@[simp] theorem State.nreg_ackErr (j : NReg) : (s.ackErr).nreg j = s.nreg j := rfl
@[simp] theorem State.wreg_ackErr (j : WReg) : (s.ackErr).wreg j = s.wreg j := rfl
@[simp] theorem State.mreg_ackErr (j : MReg) : (s.ackErr).mreg j = s.mreg j := rfl
@[simp] theorem State.nreg_answer (v : BusWord) (j : NReg) : (s.answer v).nreg j = s.nreg j := rfl
@[simp] theorem State.wreg_answer (v : BusWord) (j : WReg) : (s.answer v).wreg j = s.wreg j := rfl
@[simp] theorem State.mreg_answer (v : BusWord) (j : MReg) : (s.answer v).mreg j = s.mreg j := rfl
@[simp] theorem State.nreg_dropFileWrite (j : NReg) : (s.dropFileWrite).nreg j = s.nreg j := rfl
@[simp] theorem State.wreg_dropFileWrite (j : WReg) : (s.dropFileWrite).wreg j = s.wreg j := rfl
@[simp] theorem State.mreg_dropFileWrite (j : MReg) : (s.dropFileWrite).mreg j = s.mreg j := rfl
@[simp] theorem State.nreg_refuseAccess (x : Access) (j : NReg) : (s.refuseAccess x).nreg j = s.nreg j := rfl
@[simp] theorem State.wreg_refuseAccess (x : Access) (j : WReg) : (s.refuseAccess x).wreg j = s.wreg j := rfl
@[simp] theorem State.mreg_refuseAccess (x : Access) (j : MReg) : (s.refuseAccess x).mreg j = s.mreg j := rfl
@[simp] theorem State.nreg_withCommand (v : BusWord) (j : NReg) : (s.withCommand v).nreg j = s.nreg j := rfl
@[simp] theorem State.wreg_withCommand (v : BusWord) (j : WReg) : (s.withCommand v).wreg j = s.wreg j := rfl
@[simp] theorem State.mreg_withCommand (v : BusWord) (j : MReg) : (s.withCommand v).mreg j = s.mreg j := rfl

/-! ## The parameters -/

@[simp] theorem State.W_setN (i : NReg) (a v : Nat) (t : Option MReg) : (s.setN i a v t).W = s.W := rfl
@[simp] theorem State.L_setN (i : NReg) (a v : Nat) (t : Option MReg) : (s.setN i a v t).L = s.L := rfl
@[simp] theorem State.capacity_setN (i : NReg) (a v : Nat) (t : Option MReg) : (s.setN i a v t).capacity = s.capacity := rfl
@[simp] theorem State.W_setW (i : WReg) (v : Nat) : (s.setW i v).W = s.W := rfl
@[simp] theorem State.L_setW (i : WReg) (v : Nat) : (s.setW i v).L = s.L := rfl
@[simp] theorem State.capacity_setW (i : WReg) (v : Nat) : (s.setW i v).capacity = s.capacity := rfl
@[simp] theorem State.W_setM (k : MReg) (r : ModReg) : (s.setM k r).W = s.W := rfl
@[simp] theorem State.L_setM (k : MReg) (r : ModReg) : (s.setM k r).L = s.L := rfl
@[simp] theorem State.capacity_setM (k : MReg) (r : ModReg) : (s.setM k r).capacity = s.capacity := rfl
@[simp] theorem State.W_drawn : (s.drawn).W = s.W := rfl
@[simp] theorem State.L_drawn : (s.drawn).L = s.L := rfl
@[simp] theorem State.capacity_drawn : (s.drawn).capacity = s.capacity := rfl
@[simp] theorem State.W_complete : (s.complete).W = s.W := rfl
@[simp] theorem State.L_complete : (s.complete).L = s.L := rfl
@[simp] theorem State.capacity_complete : (s.complete).capacity = s.capacity := rfl
@[simp] theorem State.W_fail (e : ErrCode) : (s.fail e).W = s.W := rfl
@[simp] theorem State.L_fail (e : ErrCode) : (s.fail e).L = s.L := rfl
@[simp] theorem State.capacity_fail (e : ErrCode) : (s.fail e).capacity = s.capacity := rfl
@[simp] theorem State.W_ackErr : (s.ackErr).W = s.W := rfl
@[simp] theorem State.L_ackErr : (s.ackErr).L = s.L := rfl
@[simp] theorem State.capacity_ackErr : (s.ackErr).capacity = s.capacity := rfl
@[simp] theorem State.W_answer (v : BusWord) : (s.answer v).W = s.W := rfl
@[simp] theorem State.L_answer (v : BusWord) : (s.answer v).L = s.L := rfl
@[simp] theorem State.capacity_answer (v : BusWord) : (s.answer v).capacity = s.capacity := rfl
@[simp] theorem State.W_dropFileWrite : (s.dropFileWrite).W = s.W := rfl
@[simp] theorem State.L_dropFileWrite : (s.dropFileWrite).L = s.L := rfl
@[simp] theorem State.capacity_dropFileWrite : (s.dropFileWrite).capacity = s.capacity := rfl
@[simp] theorem State.W_refuseAccess (x : Access) : (s.refuseAccess x).W = s.W := rfl
@[simp] theorem State.L_refuseAccess (x : Access) : (s.refuseAccess x).L = s.L := rfl
@[simp] theorem State.capacity_refuseAccess (x : Access) : (s.refuseAccess x).capacity = s.capacity := rfl
@[simp] theorem State.W_withCommand (v : BusWord) : (s.withCommand v).W = s.W := rfl
@[simp] theorem State.L_withCommand (v : BusWord) : (s.withCommand v).L = s.L := rfl
@[simp] theorem State.capacity_withCommand (v : BusWord) : (s.withCommand v).capacity = s.capacity := rfl
@[simp] theorem State.W_engineReset : (s.engineReset).W = s.W := rfl
@[simp] theorem State.L_engineReset : (s.engineReset).L = s.L := rfl
@[simp] theorem State.capacity_engineReset : (s.engineReset).capacity = s.capacity := rfl

theorem Width.bits_pos (w : Width) : 0 < w.bits := by cases w <;> decide

theorem State.W_pos : 0 < s.W := Width.bits_pos _

theorem State.L_pos : 0 < s.L := Nat.succ_pos _

theorem State.L_le : s.L ≤ 8192 := s.params.limbsPred.isLt

/-! ## Reset -/

@[simp] theorem State.nreg_engineReset (i : NReg) : s.engineReset.nreg i = NatReg.empty := by
  simp [State.nreg]

@[simp] theorem State.wreg_engineReset (i : WReg) : s.engineReset.wreg i = 0 := by
  simp [State.wreg]

@[simp] theorem State.mreg_engineReset (k : MReg) : s.engineReset.mreg k = ModReg.empty := by
  simp [State.mreg]

end Sys2Proof.Machine
end

