-- ==== Sys2Proof/Laws/Commands.lean ====
section
/-!
SUPPORT. What each shared operation of a command answers, said once: completion, error, the
limb-vector forms, the capped form, the modulus forms.
-/

namespace Sys2Proof.Machine

variable (s : State)

/-! ## Completion and error -/

theorem State.hostSideSame_complete : s.HostSideSame s.complete :=
  ⟨rfl, rfl, rfl, rfl, rfl, rfl, rfl⟩

theorem State.completedOk_complete : s.CompletedOk s.complete :=
  ⟨⟨rfl, rfl, rfl, s.hostSideSame_complete⟩, rfl, rfl, rfl, rfl⟩

theorem State.completedWithError_fail (e : ErrCode) : s.CompletedWithError (s.fail e) e :=
  ⟨⟨rfl, rfl, rfl, rfl, rfl, rfl, rfl, rfl, rfl, rfl⟩, rfl, rfl, rfl, rfl, rfl, rfl, rfl, rfl⟩

theorem abort_answers (e : ErrCode) :
    ∃ t, abort s e = .next t ∧ s.CompletedWithError t e :=
  ⟨s.fail e, rfl, s.completedWithError_fail e⟩

/-- Register writes and draws do not show in what `CompletedOk` compares. -/
theorem State.completedOk_setN {i : NReg} {a v : Nat} {tg : Option MReg} {t : State}
    (h : (s.setN i a v tg).CompletedOk t) : s.CompletedOk t := h

theorem State.completedOk_setW {i : WReg} {v : Nat} {t : State}
    (h : (s.setW i v).CompletedOk t) : s.CompletedOk t := h

theorem State.completedOk_setM {k : MReg} {r : ModReg} {t : State}
    (h : (s.setM k r).CompletedOk t) : s.CompletedOk t := h

theorem State.completedOk_drawn {t : State} (h : s.drawn.CompletedOk t) : s.CompletedOk t := h

/-! ## Limb-vector forms (30_encoding.md R124, R125; 40_limb_primitives.md R161) -/

theorem State.badCount_eq (k : Nat) : s.badCount k = decide (k = 0 ∨ s.L < k) := by
  simp [State.badCount, Bool.beq_eq_decide_eq]

/-- A limb-vector command ends with LENGTH or writes its result. -/
theorem vectorCommand_eq (d : NReg) (e : WReg) (k : Nat) (r : Nat × Nat) :
    vectorCommand s d e k r =
      if k = 0 ∨ s.L < k then abort s .length else finish (s.putVec d e k r) := by
  simp [vectorCommand, State.badCount_eq]

/-- A limb-vector shift ends with LENGTH, or with SHIFT, or writes its result. -/
theorem vectorShift_eq (d : NReg) (e : WReg) (k amount : Nat) (r : Nat × Nat) :
    vectorShift s d e k amount r =
      if k = 0 ∨ s.L < k then abort s .length
      else if s.W ≤ amount then abort s .shift else finish (s.putVec d e k r) := by
  simp [vectorShift, State.badCount_eq]

/-! ## The capped form (41_nat_arithmetic.md R215, R216) -/

theorem cappedCommand_eq (d : NReg) (cap : Nat) (r : Nat → Nat) :
    cappedCommand s d cap r =
      if s.L * s.W < cap then abort s .length else finish (s.setN d cap (r cap) none) := rfl

/-! ## Modulus forms (42_modulus_reduction.md R242) -/

theorem withModulus_valid {mk : MReg} (h : (s.mreg mk).valid = true)
    (k : ModReg → Host.Outcome State Fault Refusal) :
    withModulus s mk k = k (s.mreg mk) := by simp [withModulus, h]

theorem withModulus_invalid {mk : MReg} (h : (s.mreg mk).valid = false)
    (k : ModReg → Host.Outcome State Fault Refusal) :
    withModulus s mk k = abort s .modulusInvalid := by simp [withModulus, h]

theorem withOddModulus_odd {mk : MReg} (h : (s.mreg mk).valid = true)
    (ho : (s.mreg mk).even = false) (k : ModReg → Host.Outcome State Fault Refusal) :
    withOddModulus s mk k = k (s.mreg mk) := by simp [withOddModulus, withModulus, h, ho]

theorem withOddModulus_even {mk : MReg} (h : (s.mreg mk).valid = true)
    (he : (s.mreg mk).even = true) (k : ModReg → Host.Outcome State Fault Refusal) :
    withOddModulus s mk k = abort s .modulusEven := by simp [withOddModulus, withModulus, h, he]

theorem withOddModulus_invalid {mk : MReg} (h : (s.mreg mk).valid = false)
    (k : ModReg → Host.Outcome State Fault Refusal) :
    withOddModulus s mk k = abort s .modulusInvalid := withModulus_invalid s h _

/-- A residue is written as it is (42_modulus_reduction.md R242). -/
theorem State.nreg_setResidue_self (d : NReg) (mk : MReg) (md : ModReg) {r : Nat}
    (h : r < md.val) :
    (s.setResidue d mk md r).nreg d = ⟨bitlen md.val, r, some mk⟩ := by
  rw [State.setResidue, State.nreg_setN_self, trunc_eq_self (lt_two_pow_of_lt h)]

end Sys2Proof.Machine
end

