-- ==== Sys2Proof/Laws/Decode.lean ====
section
/-!
SUPPORT. Packing and unpacking the fields of a command word, and the signed cap field.
-/

namespace Sys2Proof

/-- Fields whose unlimited parts fit their bits (30_encoding.md R121). -/
structure Fields.InRange (f : Fields) : Prop where
  op  : f.op < 2 ^ 8
  rsv : f.rsv < 2 ^ 2
  imm : f.imm < 2 ^ 32

theorem Fields.pack_toNat {f : Fields} (h : f.InRange) :
    f.pack.toNat =
      f.op * 2 ^ 56 + f.d.val * 2 ^ 52 + f.e.val * 2 ^ 48 + f.a.val * 2 ^ 44 + f.b.val * 2 ^ 40 +
        f.c.val * 2 ^ 36 + f.mreg.val * 2 ^ 34 + f.rsv * 2 ^ 32 + f.imm := by
  obtain ⟨h1, h2, h3⟩ := h
  have := f.d.isLt; have := f.e.isLt; have := f.a.isLt; have := f.b.isLt; have := f.c.isLt
  have := f.mreg.isLt
  rw [Fields.pack, BitVec.toNat_ofNat, Nat.mod_eq_of_lt]
  omega

/-- No field is lost in the word (30_encoding.md R121). -/
theorem Fields.unpack_pack {f : Fields} (h : f.InRange) : Fields.unpack f.pack = f := by
  have hn := Fields.pack_toNat h
  obtain ⟨h1, h2, h3⟩ := h
  have := f.d.isLt; have := f.e.isLt; have := f.a.isLt; have := f.b.isLt; have := f.c.isLt
  have := f.mreg.isLt
  rcases f with ⟨op, d, e, a, b, c, mk, rsv, imm⟩
  simp only at *
  simp only [Fields.unpack, bitsOf, hn, Fields.mk.injEq]
  refine ⟨?_, Fin.ext ?_, Fin.ext ?_, Fin.ext ?_, Fin.ext ?_, Fin.ext ?_, Fin.ext ?_, ?_, ?_⟩
  all_goals try simp only [Fin.ofNat_eq_cast, Fin.val_natCast]
  all_goals omega

/-- One more field split off the top of a number. -/
theorem div_split (n lo w : Nat) :
    n / 2 ^ lo = 2 ^ w * (n / 2 ^ (lo + w)) + n / 2 ^ lo % 2 ^ w := by
  rw [Nat.pow_add, ← Nat.div_div_eq_div_mul]
  exact (Nat.div_add_mod _ _).symm

/-- A word is the packing of its fields (30_encoding.md R121). -/
theorem Fields.pack_unpack (v : BusWord) : (Fields.unpack v).pack = v := by
  have hv := v.isLt
  apply BitVec.eq_of_toNat_eq
  simp only [Fields.pack, Fields.unpack, bitsOf, BitVec.toNat_ofNat, Fin.ofNat_eq_cast,
    Fin.val_natCast]
  generalize v.toNat = n at hv
  have e0 := div_split n 0 32
  have e1 := div_split n 32 2
  have e2 := div_split n 34 2
  have e3 := div_split n 36 4
  have e4 := div_split n 40 4
  have e5 := div_split n 44 4
  have e6 := div_split n 48 4
  have e7 := div_split n 52 4
  have e8 : n / 2 ^ 56 % 2 ^ 8 = n / 2 ^ 56 := Nat.mod_eq_of_lt (by omega)
  rw [e8]
  simp only [Nat.reduceAdd, Nat.pow_zero, Nat.div_one] at *
  have m1 : n / 2 ^ 52 % 2 ^ 4 % 16 = n / 2 ^ 52 % 2 ^ 4 := by omega
  have m2 : n / 2 ^ 48 % 2 ^ 4 % 16 = n / 2 ^ 48 % 2 ^ 4 := by omega
  have m3 : n / 2 ^ 44 % 2 ^ 4 % 16 = n / 2 ^ 44 % 2 ^ 4 := by omega
  have m4 : n / 2 ^ 40 % 2 ^ 4 % 16 = n / 2 ^ 40 % 2 ^ 4 := by omega
  have m5 : n / 2 ^ 36 % 2 ^ 4 % 16 = n / 2 ^ 36 % 2 ^ 4 := by omega
  have m6 : n / 2 ^ 34 % 2 ^ 2 % 4 = n / 2 ^ 34 % 2 ^ 2 := by omega
  rw [m1, m2, m3, m4, m5, m6]
  clear m1 m2 m3 m4 m5 m6 e8
  generalize n / 2 ^ 56 = q8 at *
  generalize n / 2 ^ 52 % 2 ^ 4 = f7 at *
  generalize n / 2 ^ 52 = q7 at *
  generalize n / 2 ^ 48 % 2 ^ 4 = f6 at *
  generalize n / 2 ^ 48 = q6 at *
  generalize n / 2 ^ 44 % 2 ^ 4 = f5 at *
  generalize n / 2 ^ 44 = q5 at *
  generalize n / 2 ^ 40 % 2 ^ 4 = f4 at *
  generalize n / 2 ^ 40 = q4 at *
  generalize n / 2 ^ 36 % 2 ^ 4 = f3 at *
  generalize n / 2 ^ 36 = q3 at *
  generalize n / 2 ^ 34 % 2 ^ 2 = f2 at *
  generalize n / 2 ^ 34 = q2 at *
  generalize n / 2 ^ 32 % 2 ^ 2 = f1 at *
  generalize n / 2 ^ 32 = q1 at *
  generalize n % 2 ^ 32 = f0 at *
  rw [Nat.mod_eq_of_lt] <;> omega

theorem Fields.unpack_inRange (v : BusWord) : (Fields.unpack v).InRange :=
  ⟨Nat.mod_lt _ (by decide), Nat.mod_lt _ (by decide), Nat.mod_lt _ (by decide)⟩

/-- The cap field holds a fitting cap (30_encoding.md R127). -/
theorem capField_lt (cap : Int) : capField cap < 2 ^ 32 := by
  unfold capField
  omega

theorem cap_capField {cap : Int} (h1 : -2 ^ 31 ≤ cap) (h2 : cap < 2 ^ 31) (f : Fields)
    (hf : f.imm = capField cap) : f.cap = cap := by
  unfold Fields.cap
  rw [hf]
  unfold capField
  split <;> omega

end Sys2Proof
end

