-- ==== Sys2Proof/Laws/Encoding.lean ====
section
/-!
SUPPORT. What the decoder does with a word of each row of the opcode map, and the one lemma behind the
"Encoding" line of every command's rule: `encoded_of_row`.
-/

namespace Sys2Proof.Machine

/-! ## Bits of a word -/

theorem bitsOf_testBit (v : BusWord) (lo n i : Nat) :
    (bitsOf v lo n).testBit i = (decide (i < n) && v.getLsbD (lo + i)) := by
  rw [bitsOf, Nat.testBit_mod_two_pow, Nat.testBit_div_two_pow, BitVec.getLsbD, Nat.add_comm]

/-- A field is 0 exactly when its bits are. -/
theorem bitsOf_eq_zero_iff (v : BusWord) (lo n : Nat) :
    bitsOf v lo n = 0 ↔ ∀ b, lo ≤ b → b < lo + n → v.getLsbD b = false := by
  constructor
  · intro h b h1 h2
    have := bitsOf_testBit v lo n (b - lo)
    rw [h, Nat.zero_testBit, Nat.add_sub_cancel' h1] at this
    simpa [show b - lo < n by omega] using this.symm
  · intro h
    apply Nat.eq_of_testBit_eq
    intro i
    rw [bitsOf_testBit, Nat.zero_testBit]
    by_cases hi : i < n
    · simp [hi, h (lo + i) (by omega) (by omega)]
    · simp [hi]

theorem ofNat_bitsOf_eq_zero {n : Nat} (k : Nat) (hk : k = 2 ^ n) [NeZero k] (v : BusWord)
    (lo : Nat) : Fin.ofNat k (bitsOf v lo n) = 0 ↔ bitsOf v lo n = 0 := by
  subst hk
  rw [Fin.ext_iff]
  simp [Fin.ofNat, bitsOf]

/-! ## The unused bits (30_encoding.md R130) -/

/-- The decoder's check of the unused fields is the rule's check of the unused bits. -/
theorem clear_unpack_iff (fmt : Format) (v : BusWord) :
    fmt.clear (Fields.unpack v) = true ↔
      ∀ b, b < 64 → Format.unusedBit fmt b = true → v.getLsbD b = false := by
  have e16 (lo : Nat) := ofNat_bitsOf_eq_zero 16 (n := 4) rfl v lo
  have e4 := ofNat_bitsOf_eq_zero 4 (n := 2) rfl v 34
  have elow : ∀ m : Nat, m / 2 ^ 16 = 0 ↔ m / 2 ^ 16 % 2 ^ 16 = 0 ∧ m / 2 ^ 32 = 0 := by omega
  have ehigh : bitsOf v 0 32 / 2 ^ 16 = bitsOf v 16 16 := by
    simp only [bitsOf]; omega
  simp only [Format.clear, Format.unusedBit, Fields.unpack]
  generalize fmt.uses = u
  rcases u with ⟨d, e, a, b, c, mr, im⟩
  simp only [Bool.and_eq_true, Bool.or_eq_true, beq_iff_eq, e16, e4, bitsOf_eq_zero_iff,
    Bool.not_eq_true', decide_eq_true_eq, bne_iff_ne]
  constructor
  · rintro ⟨⟨⟨⟨⟨⟨⟨h1, h2⟩, h3⟩, h4⟩, h5⟩, h6⟩, h7⟩, h8⟩ i hi h
    rcases h with ((((((((⟨h, hu⟩ | ⟨h, hu⟩) | ⟨h, hu⟩) | ⟨h, hu⟩) | ⟨h, hu⟩) | ⟨h, hu⟩) | h) | ⟨h, hu⟩) |
      ⟨h, hu⟩)
    · exact (h1.resolve_left (by simp [hu])) i (by omega) (by omega)
    · exact (h2.resolve_left (by simp [hu])) i (by omega) (by omega)
    · exact (h3.resolve_left (by simp [hu])) i (by omega) (by omega)
    · exact (h4.resolve_left (by simp [hu])) i (by omega) (by omega)
    · exact (h5.resolve_left (by simp [hu])) i (by omega) (by omega)
    · exact (h6.resolve_left (by simp [hu])) i (by omega) (by omega)
    · exact h7 i (by omega) (by omega)
    · cases im with
      | none => exact (bitsOf_eq_zero_iff v 0 32).1 (by simpa [ImmUse.clear] using h8) i
                  (by omega) (by omega)
      | low16 =>
        refine (bitsOf_eq_zero_iff v 16 16).1 ?_ i (by omega) (by omega)
        rw [← ehigh]
        simpa [ImmUse.clear] using h8
      | all => exact absurd rfl hu
    · subst hu
      exact (bitsOf_eq_zero_iff v 0 32).1 (by simpa [ImmUse.clear] using h8) i
        (by omega) (by omega)
  · intro h
    refine ⟨⟨⟨⟨⟨⟨⟨?_, ?_⟩, ?_⟩, ?_⟩, ?_⟩, ?_⟩, ?_⟩, ?_⟩
    · cases d
      · exact .inr fun i h1 h2 => h i (by omega) (by simp; omega)
      · exact .inl rfl
    · cases e
      · exact .inr fun i h1 h2 => h i (by omega) (by simp; omega)
      · exact .inl rfl
    · cases a
      · exact .inr fun i h1 h2 => h i (by omega) (by simp; omega)
      · exact .inl rfl
    · cases b
      · exact .inr fun i h1 h2 => h i (by omega) (by simp; omega)
      · exact .inl rfl
    · cases c
      · exact .inr fun i h1 h2 => h i (by omega) (by simp; omega)
      · exact .inl rfl
    · cases mr
      · exact .inr fun i h1 h2 => h i (by omega) (by simp; omega)
      · exact .inl rfl
    · exact fun i h1 h2 => h i (by omega) (by simp; omega)
    · cases im with
      | none =>
        have : bitsOf v 0 32 = 0 := (bitsOf_eq_zero_iff v 0 32).2 fun i h1 h2 =>
          h i (by omega) (by simp; omega)
        simpa [ImmUse.clear] using this
      | low16 =>
        have : bitsOf v 16 16 = 0 := (bitsOf_eq_zero_iff v 16 16).2 fun i h1 h2 =>
          h i (by omega) (by simp; omega)
        rw [← ehigh] at this
        simpa [ImmUse.clear] using this
      | all => rfl

/-! ## The opcode map (30_encoding.md R128) -/

/-- No two rows share an opcode: looking a row's opcode up finds the row. -/
theorem findRow_of_mem {r : OpcodeRow} (h : r ∈ opcodeRows) : findRow r.op = some r := by
  simp only [opcodeRows, opcodeRowsAccess, opcodeRowsVector, opcodeRowsNat, opcodeRowsModular,
    List.cons_append, List.nil_append, List.mem_cons, List.not_mem_nil, or_false] at h
  repeat (rcases h with rfl | h; · rfl)

/-- What the decoder answers on a word whose opcode is a row's. -/
theorem decode_of_row {r : OpcodeRow} (h : r ∈ opcodeRows) {v : BusWord}
    (hv : bitsOf v 56 8 = r.op) :
    decode v =
      if r.format.clear (Fields.unpack v) then .command (r.build (Fields.unpack v))
      else .illegal .reservedField := by
  have : (Fields.unpack v).op = r.op := hv
  rw [decode, decodeFields, this, findRow_of_mem h]

/-- The "Encoding" line of the command of each row. -/
theorem encoded_of_row {r : OpcodeRow} (h : r ∈ opcodeRows) :
    Encoded r.op r.format r.build := by
  intro s hs
  have hd := decode_of_row h hs
  refine ⟨fun hb => ?_, fun ⟨b, h1, h2, h3⟩ => ?_⟩
  · rw [completion, hd, if_pos ((clear_unpack_iff _ _).2 hb)]
  · have hc : ¬ r.format.clear (Fields.unpack s.cmd) = true := fun hc => by
      simp [(clear_unpack_iff _ _).1 hc b h1 h2] at h3
    rw [completion, hd, if_neg hc]
    exact abort_answers s _

end Sys2Proof.Machine
end

