-- ==== Sys2Proof/Laws/Invariant.lean ====
section
/-!
SUPPORT. Each named operation keeps the invariant of Safety.lean, so that the invariance of a step is
a case analysis over commands and bus registers.
-/

namespace Sys2Proof.Machine

variable {s : State}

/-! ## What the invariant gives -/

theorem State.Inv.val_pos (h : s.Inv) {k : MReg} (hv : (s.mreg k).valid = true) :
    1 ≤ (s.mreg k).val := ((h.2.2.2.1 k).2 hv).1

/-- `BitLen(k) <= L*W` (10_state.md R40, R41). -/
theorem State.Inv.bitlen_le (h : s.Inv) {k : MReg} (hv : (s.mreg k).valid = true) :
    bitlen (s.mreg k).val ≤ s.capacity := by
  obtain ⟨_, hs, hL, _⟩ := (h.2.2.2.1 k).2 hv
  exact (le_nlimbs_mul s.W_pos _).trans (hs ▸ Nat.mul_le_mul_right _ hL)

/-! ## Register writes -/

theorem State.Inv.setW (h : s.Inv) (i : WReg) (v : Nat) : (s.setW i v).Inv := by
  refine ⟨fun j => ?_, h.2⟩
  rw [State.wreg_setW, State.W_setW]
  split
  · exact trunc_lt _ _
  · exact h.1 j

theorem State.Inv.setN (h : s.Inv) (i : NReg) {a v : Nat} {t : Option MReg}
    (ha : a ≤ s.capacity)
    (ht : ∀ k, t = some k → (s.mreg k).valid = true ∧ trunc a v < (s.mreg k).val) :
    (s.setN i a v t).Inv := by
  refine ⟨h.1, fun j => ?_, fun j k hj => ?_, h.2.2.2.1, h.2.2.2.2⟩
  · rw [State.nreg_setN, State.capacity_setN]
    split
    · exact ⟨ha, trunc_lt _ _⟩
    · exact h.2.1 j
  · rw [State.nreg_setN] at hj ⊢
    rw [State.mreg_setN]
    split at hj
    · next hji => simpa [hji] using ht k hj
    · next hji => simpa [hji] using h.2.2.1 j k hj

/-- A write with the tag cleared. -/
theorem State.Inv.setN_none (h : s.Inv) (i : NReg) {a : Nat} (v : Nat) (ha : a ≤ s.capacity) :
    (s.setN i a v none).Inv := h.setN i ha (by simp)

/-- A modular result (42_modulus_reduction.md R242). -/
theorem State.Inv.setResidue (h : s.Inv) (d : NReg) {mk : MReg} {r : Nat}
    (hv : (s.mreg mk).valid = true) (hr : r < (s.mreg mk).val) :
    (s.setResidue d mk (s.mreg mk) r).Inv := by
  refine h.setN d (h.bitlen_le hv) fun k hk => ?_
  obtain rfl := Option.some.inj hk
  exact ⟨hv, (Nat.mod_le _ _).trans_lt hr⟩

theorem State.Inv.setM (h : s.Inv) (k : MReg) {r : ModReg} (hr : r.Consistent s.W s.L) :
    (s.setM k r).Inv := by
  refine ⟨h.1, fun j => ?_, fun j k' hj => ?_, fun k' => ?_, h.2.2.2.2⟩
  · rw [State.nreg_setM]
    split
    · exact h.2.1 j
    · exact h.2.1 j
  · rw [State.nreg_setM] at hj ⊢
    split at hj
    · exact absurd hj (by simp)
    · next hne =>
      have hkk : k' ≠ k := fun e => hne (e ▸ hj)
      simpa [hne, State.mreg_setM_ne s hkk] using h.2.2.1 j k' hj
  · rw [State.mreg_setM]
    split
    · exact hr
    · exact h.2.2.2.1 k'

theorem State.Inv.drawn (h : s.Inv) : s.drawn.Inv := h

/-! ## Completion, error, acknowledgement, reset -/

theorem State.Inv.complete (h : s.Inv) : s.complete.Inv :=
  ⟨h.1, h.2.1, h.2.2.1, h.2.2.2.1, h.2.2.2.2.1, by simp⟩

theorem State.Inv.fail (h : s.Inv) {e : ErrCode} (he : e ≠ .none) : (s.fail e).Inv :=
  ⟨h.1, h.2.1, h.2.2.1, h.2.2.2.1, by simp [he], by simp⟩

theorem State.Inv.ackErr (h : s.Inv) : s.ackErr.Inv :=
  ⟨h.1, h.2.1, h.2.2.1, h.2.2.2.1, by simp, fun hb => ⟨(h.2.2.2.2.2 hb).1, rfl⟩⟩

theorem State.inv_engineReset (s : State) : s.engineReset.Inv := by
  refine ⟨fun i => ?_, fun i => ?_, fun i k hk => ?_, fun k => ?_, ?_, ?_⟩
  · rw [State.wreg_engineReset]; positivity
  · rw [State.nreg_engineReset]; exact ⟨Nat.zero_le _, by decide⟩
  · rw [State.nreg_engineReset] at hk; exact absurd hk (by simp [NatReg.empty])
  · rw [State.mreg_engineReset]; exact ⟨fun _ => rfl, fun hv => absurd hv (by decide)⟩
  · simp
  · simp

/-! ## The host side -/

theorem State.Inv.answer (h : s.Inv) (v : BusWord) : (s.answer v).Inv := h

theorem State.Inv.dropFileWrite (h : s.Inv) : s.dropFileWrite.Inv := h

theorem State.Inv.refuseAccess (h : s.Inv) (x : Access) : (s.refuseAccess x).Inv := h

/-- The invariant does not see the events still to come. -/
theorem State.Inv.withScript (h : s.Inv) (es : List Event) : State.Inv { s with script := es } := h

end Sys2Proof.Machine
end

