-- ==== Sys2Proof/Laws/PerInstr.lean ====
section
/-!
SUPPORT. A statement about every command as syntax: its fields, checked and built again by the
decoder, are the command (30_encoding.md R121, R122, R128).
-/

namespace Sys2Proof.Laws.FieldsDecode

open Sys2Proof

/-- The decoder's checks pass on the fields of a well-formed command and build it again. -/
def Statement (i : Instr) : Prop :=
  i.wellFormed = true → i.toFields.InRange ∧ decodeFields i.toFields = .command i

/-- One row of the opcode map, its check and its build decide `decodeFields`. -/
theorem decodeFields_of_row {f : Fields} {r : OpcodeRow} {i : Instr} (hr : findRow f.op = some r)
    (hc : r.format.clear f = true) (hb : r.build f = i) : decodeFields f = .command i := by
  simp [decodeFields, hr, hc, hb]

theorem nop : Statement (.nop) := fun _ =>
  ⟨⟨by simp [Instr.toFields], by simp [Instr.toFields], by simp [Instr.toFields]⟩,
    decodeFields_of_row rfl rfl rfl⟩

theorem wmovi (d : _) (imm : _) : Statement (.wmovi d imm) := fun h => by
  have h1 : imm < 2 ^ 32 := by simpa [Instr.wellFormed] using h
  exact ⟨⟨by simp [Instr.toFields], by simp [Instr.toFields], h1⟩, decodeFields_of_row rfl rfl rfl⟩

theorem nsetw (d : _) (a : _) : Statement (.nsetw d a) := fun _ =>
  ⟨⟨by simp [Instr.toFields], by simp [Instr.toFields], by simp [Instr.toFields]⟩,
    decodeFields_of_row rfl rfl rfl⟩

theorem ngetw (d : _) (a : _) (j : _) : Statement (.ngetw d a j) := fun h => by
  have h1 : j < 2 ^ 16 := by simpa [Instr.wellFormed] using h
  refine ⟨⟨by simp [Instr.toFields], by simp [Instr.toFields], by simp [Instr.toFields]; omega⟩, ?_⟩
  refine decodeFields_of_row rfl ?_ ?_
  · simp [Instr.toFields, Format.clear, Format.uses, ImmUse.clear]; omega
  · simp [Instr.toFields, Fields.low16]; omega

theorem nputw (d : _) (a : _) (j : _) : Statement (.nputw d a j) := fun h => by
  have h1 : j < 2 ^ 16 := by simpa [Instr.wellFormed] using h
  refine ⟨⟨by simp [Instr.toFields], by simp [Instr.toFields], by simp [Instr.toFields]; omega⟩, ?_⟩
  refine decodeFields_of_row rfl ?_ ?_
  · simp [Instr.toFields, Format.clear, Format.uses, ImmUse.clear]; omega
  · simp [Instr.toFields, Fields.low16]; omega

theorem ncopy (d : _) (a : _) : Statement (.ncopy d a) := fun _ =>
  ⟨⟨by simp [Instr.toFields], by simp [Instr.toFields], by simp [Instr.toFields]⟩,
    decodeFields_of_row rfl rfl rfl⟩

theorem cteq (d : _) (a : _) (b : _) : Statement (.cteq d a b) := fun _ =>
  ⟨⟨by simp [Instr.toFields], by simp [Instr.toFields], by simp [Instr.toFields]⟩,
    decodeFields_of_row rfl rfl rfl⟩

theorem ctgt (d : _) (a : _) (b : _) : Statement (.ctgt d a b) := fun _ =>
  ⟨⟨by simp [Instr.toFields], by simp [Instr.toFields], by simp [Instr.toFields]⟩,
    decodeFields_of_row rfl rfl rfl⟩

theorem ctifelse (d : _) (a : _) (b : _) (c : _) : Statement (.ctifelse d a b c) := fun _ =>
  ⟨⟨by simp [Instr.toFields], by simp [Instr.toFields], by simp [Instr.toFields]⟩,
    decodeFields_of_row rfl rfl rfl⟩

theorem div1 (d : _) (e : _) (a : _) (b : _) (c : _) : Statement (.div1 d e a b c) := fun _ =>
  ⟨⟨by simp [Instr.toFields], by simp [Instr.toFields], by simp [Instr.toFields]⟩,
    decodeFields_of_row rfl rfl rfl⟩

theorem addvv (d : _) (e : _) (a : _) (b : _) (k : _) : Statement (.addvv d e a b k) := fun h => by
  have h1 : k < 2 ^ 16 := by simpa [Instr.wellFormed] using h
  refine ⟨⟨by simp [Instr.toFields], by simp [Instr.toFields], by simp [Instr.toFields]; omega⟩, ?_⟩
  refine decodeFields_of_row rfl ?_ ?_
  · simp [Instr.toFields, Format.clear, Format.uses, ImmUse.clear]; omega
  · simp [Instr.toFields, Fields.low16]; omega

theorem subvv (d : _) (e : _) (a : _) (b : _) (k : _) : Statement (.subvv d e a b k) := fun h => by
  have h1 : k < 2 ^ 16 := by simpa [Instr.wellFormed] using h
  refine ⟨⟨by simp [Instr.toFields], by simp [Instr.toFields], by simp [Instr.toFields]; omega⟩, ?_⟩
  refine decodeFields_of_row rfl ?_ ?_
  · simp [Instr.toFields, Format.clear, Format.uses, ImmUse.clear]; omega
  · simp [Instr.toFields, Fields.low16]; omega

theorem shlvu (d : _) (e : _) (a : _) (k : _) (s : _) : Statement (.shlvu d e a k s) := fun h => by
  have h1 : k < 2 ^ 16 ∧ s < 2 ^ 16 := by simpa [Instr.wellFormed] using h
  refine ⟨⟨by simp [Instr.toFields], by simp [Instr.toFields], by simp [Instr.toFields]; omega⟩, ?_⟩
  refine decodeFields_of_row rfl rfl ?_
  simp only [Instr.toFields, Fields.low16, Fields.high16, Instr.shlvu.injEq, true_and]
  omega

theorem shrvu (d : _) (e : _) (a : _) (k : _) (s : _) : Statement (.shrvu d e a k s) := fun h => by
  have h1 : k < 2 ^ 16 ∧ s < 2 ^ 16 := by simpa [Instr.wellFormed] using h
  refine ⟨⟨by simp [Instr.toFields], by simp [Instr.toFields], by simp [Instr.toFields]; omega⟩, ?_⟩
  refine decodeFields_of_row rfl rfl ?_
  simp only [Instr.toFields, Fields.low16, Fields.high16, Instr.shrvu.injEq, true_and]
  omega

theorem addmulvvw (d : _) (e : _) (a : _) (b : _) (k : _) : Statement (.addmulvvw d e a b k) := fun h => by
  have h1 : k < 2 ^ 16 := by simpa [Instr.wellFormed] using h
  refine ⟨⟨by simp [Instr.toFields], by simp [Instr.toFields], by simp [Instr.toFields]; omega⟩, ?_⟩
  refine decodeFields_of_row rfl ?_ ?_
  · simp [Instr.toFields, Format.clear, Format.uses, ImmUse.clear]; omega
  · simp [Instr.toFields, Fields.low16]; omega

theorem mulsubvvw (d : _) (e : _) (a : _) (b : _) (k : _) : Statement (.mulsubvvw d e a b k) := fun h => by
  have h1 : k < 2 ^ 16 := by simpa [Instr.wellFormed] using h
  refine ⟨⟨by simp [Instr.toFields], by simp [Instr.toFields], by simp [Instr.toFields]; omega⟩, ?_⟩
  refine decodeFields_of_row rfl ?_ ?_
  · simp [Instr.toFields, Format.clear, Format.uses, ImmUse.clear]; omega
  · simp [Instr.toFields, Fields.low16]; omega

theorem addvw (d : _) (e : _) (a : _) (b : _) (k : _) : Statement (.addvw d e a b k) := fun h => by
  have h1 : k < 2 ^ 16 := by simpa [Instr.wellFormed] using h
  refine ⟨⟨by simp [Instr.toFields], by simp [Instr.toFields], by simp [Instr.toFields]; omega⟩, ?_⟩
  refine decodeFields_of_row rfl ?_ ?_
  · simp [Instr.toFields, Format.clear, Format.uses, ImmUse.clear]; omega
  · simp [Instr.toFields, Fields.low16]; omega

theorem subvw (d : _) (e : _) (a : _) (b : _) (k : _) : Statement (.subvw d e a b k) := fun h => by
  have h1 : k < 2 ^ 16 := by simpa [Instr.wellFormed] using h
  refine ⟨⟨by simp [Instr.toFields], by simp [Instr.toFields], by simp [Instr.toFields]; omega⟩, ?_⟩
  refine decodeFields_of_row rfl ?_ ?_
  · simp [Instr.toFields, Format.clear, Format.uses, ImmUse.clear]; omega
  · simp [Instr.toFields, Fields.low16]; omega

theorem ctcondcopy (d : _) (a : _) (c : _) : Statement (.ctcondcopy d a c) := fun _ =>
  ⟨⟨by simp [Instr.toFields], by simp [Instr.toFields], by simp [Instr.toFields]⟩,
    decodeFields_of_row rfl rfl rfl⟩

theorem ctcondswap (d : _) (e : _) (c : _) : Statement (.ctcondswap d e c) := fun _ =>
  ⟨⟨by simp [Instr.toFields], by simp [Instr.toFields], by simp [Instr.toFields]⟩,
    decodeFields_of_row rfl rfl rfl⟩

theorem nresize (d : _) (a : _) (cap : _) : Statement (.nresize d a cap) := fun h => by
  have h1 : -2 ^ 31 ≤ cap ∧ cap < 2 ^ 31 := by simpa [Instr.wellFormed] using h
  refine ⟨⟨by simp [Instr.toFields], by simp [Instr.toFields], capField_lt cap⟩, ?_⟩
  refine decodeFields_of_row rfl rfl ?_
  simp only [Instr.toFields]
  rw [cap_capField h1.1 h1.2 _ rfl]

theorem nadd (d : _) (a : _) (b : _) (cap : _) : Statement (.nadd d a b cap) := fun h => by
  have h1 : -2 ^ 31 ≤ cap ∧ cap < 2 ^ 31 := by simpa [Instr.wellFormed] using h
  refine ⟨⟨by simp [Instr.toFields], by simp [Instr.toFields], capField_lt cap⟩, ?_⟩
  refine decodeFields_of_row rfl rfl ?_
  simp only [Instr.toFields]
  rw [cap_capField h1.1 h1.2 _ rfl]

theorem nsub (d : _) (a : _) (b : _) (cap : _) : Statement (.nsub d a b cap) := fun h => by
  have h1 : -2 ^ 31 ≤ cap ∧ cap < 2 ^ 31 := by simpa [Instr.wellFormed] using h
  refine ⟨⟨by simp [Instr.toFields], by simp [Instr.toFields], capField_lt cap⟩, ?_⟩
  refine decodeFields_of_row rfl rfl ?_
  simp only [Instr.toFields]
  rw [cap_capField h1.1 h1.2 _ rfl]

theorem nmul (d : _) (a : _) (b : _) (cap : _) : Statement (.nmul d a b cap) := fun h => by
  have h1 : -2 ^ 31 ≤ cap ∧ cap < 2 ^ 31 := by simpa [Instr.wellFormed] using h
  refine ⟨⟨by simp [Instr.toFields], by simp [Instr.toFields], capField_lt cap⟩, ?_⟩
  refine decodeFields_of_row rfl rfl ?_
  simp only [Instr.toFields]
  rw [cap_capField h1.1 h1.2 _ rfl]

theorem nlsh (d : _) (a : _) (b : _) (cap : _) : Statement (.nlsh d a b cap) := fun h => by
  have h1 : -2 ^ 31 ≤ cap ∧ cap < 2 ^ 31 := by simpa [Instr.wellFormed] using h
  refine ⟨⟨by simp [Instr.toFields], by simp [Instr.toFields], capField_lt cap⟩, ?_⟩
  refine decodeFields_of_row rfl rfl ?_
  simp only [Instr.toFields]
  rw [cap_capField h1.1 h1.2 _ rfl]

theorem nrsh (d : _) (a : _) (b : _) (cap : _) : Statement (.nrsh d a b cap) := fun h => by
  have h1 : -2 ^ 31 ≤ cap ∧ cap < 2 ^ 31 := by simpa [Instr.wellFormed] using h
  refine ⟨⟨by simp [Instr.toFields], by simp [Instr.toFields], capField_lt cap⟩, ?_⟩
  refine decodeFields_of_row rfl rfl ?_
  simp only [Instr.toFields]
  rw [cap_capField h1.1 h1.2 _ rfl]

theorem ncmp (d : _) (e : _) (a : _) (b : _) (c : _) : Statement (.ncmp d e a b c) := fun _ =>
  ⟨⟨by simp [Instr.toFields], by simp [Instr.toFields], by simp [Instr.toFields]⟩,
    decodeFields_of_row rfl rfl rfl⟩

theorem neq (d : _) (a : _) (b : _) : Statement (.neq d a b) := fun _ =>
  ⟨⟨by simp [Instr.toFields], by simp [Instr.toFields], by simp [Instr.toFields]⟩,
    decodeFields_of_row rfl rfl rfl⟩

theorem neqzero (d : _) (a : _) : Statement (.neqzero d a) := fun _ =>
  ⟨⟨by simp [Instr.toFields], by simp [Instr.toFields], by simp [Instr.toFields]⟩,
    decodeFields_of_row rfl rfl rfl⟩

theorem modset (a : _) (mk : _) : Statement (.modset a mk) := fun _ =>
  ⟨⟨by simp [Instr.toFields], by simp [Instr.toFields], by simp [Instr.toFields]⟩,
    decodeFields_of_row rfl rfl rfl⟩

theorem shiftaddin (d : _) (e : _) (a : _) (mk : _) : Statement (.shiftaddin d e a mk) := fun _ =>
  ⟨⟨by simp [Instr.toFields], by simp [Instr.toFields], by simp [Instr.toFields]⟩,
    decodeFields_of_row rfl rfl rfl⟩

theorem mod (d : _) (a : _) (mk : _) : Statement (.mod d a mk) := fun _ =>
  ⟨⟨by simp [Instr.toFields], by simp [Instr.toFields], by simp [Instr.toFields]⟩,
    decodeFields_of_row rfl rfl rfl⟩

theorem div (d : _) (a : _) (mk : _) (cap : _) : Statement (.div d a mk cap) := fun h => by
  have h1 : -2 ^ 31 ≤ cap ∧ cap < 2 ^ 31 := by simpa [Instr.wellFormed] using h
  refine ⟨⟨by simp [Instr.toFields], by simp [Instr.toFields], capField_lt cap⟩, ?_⟩
  refine decodeFields_of_row rfl rfl ?_
  simp only [Instr.toFields]
  rw [cap_capField h1.1 h1.2 _ rfl]

theorem modadd (d : _) (a : _) (b : _) (mk : _) : Statement (.modadd d a b mk) := fun _ =>
  ⟨⟨by simp [Instr.toFields], by simp [Instr.toFields], by simp [Instr.toFields]⟩,
    decodeFields_of_row rfl rfl rfl⟩

theorem modsub (d : _) (a : _) (b : _) (mk : _) : Statement (.modsub d a b mk) := fun _ =>
  ⟨⟨by simp [Instr.toFields], by simp [Instr.toFields], by simp [Instr.toFields]⟩,
    decodeFields_of_row rfl rfl rfl⟩

theorem modneg (d : _) (a : _) (mk : _) : Statement (.modneg d a mk) := fun _ =>
  ⟨⟨by simp [Instr.toFields], by simp [Instr.toFields], by simp [Instr.toFields]⟩,
    decodeFields_of_row rfl rfl rfl⟩

theorem modmul (d : _) (a : _) (b : _) (mk : _) : Statement (.modmul d a b mk) := fun _ =>
  ⟨⟨by simp [Instr.toFields], by simp [Instr.toFields], by simp [Instr.toFields]⟩,
    decodeFields_of_row rfl rfl rfl⟩

theorem montmul (d : _) (a : _) (b : _) (mk : _) : Statement (.montmul d a b mk) := fun _ =>
  ⟨⟨by simp [Instr.toFields], by simp [Instr.toFields], by simp [Instr.toFields]⟩,
    decodeFields_of_row rfl rfl rfl⟩

theorem montrep (d : _) (a : _) (mk : _) : Statement (.montrep d a mk) := fun _ =>
  ⟨⟨by simp [Instr.toFields], by simp [Instr.toFields], by simp [Instr.toFields]⟩,
    decodeFields_of_row rfl rfl rfl⟩

theorem exp (d : _) (a : _) (b : _) (mk : _) : Statement (.exp d a b mk) := fun _ =>
  ⟨⟨by simp [Instr.toFields], by simp [Instr.toFields], by simp [Instr.toFields]⟩,
    decodeFields_of_row rfl rfl rfl⟩

theorem modinv (d : _) (a : _) (mk : _) : Statement (.modinv d a mk) := fun _ =>
  ⟨⟨by simp [Instr.toFields], by simp [Instr.toFields], by simp [Instr.toFields]⟩,
    decodeFields_of_row rfl rfl rfl⟩

theorem coprime (d : _) (a : _) (b : _) : Statement (.coprime d a b) := fun _ =>
  ⟨⟨by simp [Instr.toFields], by simp [Instr.toFields], by simp [Instr.toFields]⟩,
    decodeFields_of_row rfl rfl rfl⟩

theorem modsqrt (d : _) (a : _) (mk : _) : Statement (.modsqrt d a mk) := fun _ =>
  ⟨⟨by simp [Instr.toFields], by simp [Instr.toFields], by simp [Instr.toFields]⟩,
    decodeFields_of_row rfl rfl rfl⟩

end Sys2Proof.Laws.FieldsDecode
end

