-- ==== Sys2Proof/Machine/Assembler.lean ====
section
/-!
DEFINITION. The assembler's side of the commands: mnemonics, operands in the order of each rule's
heading, the six pseudo-commands, and the host operations of a program listing
(30_encoding.md R133, R134). No step reads it.
-/

namespace Sys2Proof.Machine

/-! ## Text of a command (R133) -/

/-- The operands of a command as text. -/
inductive Operand where
  | n (i : NReg)
  | w (i : WReg)
  | m (k : MReg)
  | imm (v : Nat)
  | cap (v : Int)
deriving DecidableEq, Repr

/-- `n0`, `w0`, `m0`, a decimal immediate, or a cap, which may be negative (30_encoding.md R133). -/
def Operand.text : Operand → String
  | .n i => "n" ++ toString i.val
  | .w i => "w" ++ toString i.val
  | .m k => "m" ++ toString k.val
  | .imm v => toString v
  | .cap v => toString v

/-- Mnemonic and operands, in the order of the heading of the command's rule
(30_encoding.md R128, R133). -/
def Instr.assembly : Instr → String × List Operand
  | .nop => ("NOP", [])
  | .wmovi d imm => ("WMOVI", [.w d, .imm imm])
  | .nsetw d a => ("NSETW", [.n d, .w a])
  | .ngetw d a j => ("NGETW", [.w d, .n a, .imm j])
  | .nputw d a j => ("NPUTW", [.n d, .w a, .imm j])
  | .ncopy d a => ("NCOPY", [.n d, .n a])
  | .cteq d a b => ("CTEQ", [.w d, .w a, .w b])
  | .ctgt d a b => ("CTGT", [.w d, .w a, .w b])
  | .ctifelse d a b c => ("CTIFELSE", [.w d, .w a, .w b, .w c])
  | .div1 d e a b c => ("DIV1", [.w d, .w e, .w a, .w b, .w c])
  | .addvv d e a b k => ("ADDVV", [.n d, .w e, .n a, .n b, .imm k])
  | .subvv d e a b k => ("SUBVV", [.n d, .w e, .n a, .n b, .imm k])
  | .shlvu d e a k s => ("SHLVU", [.n d, .w e, .n a, .imm k, .imm s])
  | .shrvu d e a k s => ("SHRVU", [.n d, .w e, .n a, .imm k, .imm s])
  | .addmulvvw d e a b k => ("ADDMULVVW", [.n d, .w e, .n a, .w b, .imm k])
  | .mulsubvvw d e a b k => ("MULSUBVVW", [.n d, .w e, .n a, .w b, .imm k])
  | .addvw d e a b k => ("ADDVW", [.n d, .w e, .n a, .w b, .imm k])
  | .subvw d e a b k => ("SUBVW", [.n d, .w e, .n a, .w b, .imm k])
  | .ctcondcopy d a c => ("CTCONDCOPY", [.n d, .n a, .w c])
  | .ctcondswap d e c => ("CTCONDSWAP", [.n d, .n e, .w c])
  | .nresize d a cap => ("NRESIZE", [.n d, .n a, .cap cap])
  | .nadd d a b cap => ("NADD", [.n d, .n a, .n b, .cap cap])
  | .nsub d a b cap => ("NSUB", [.n d, .n a, .n b, .cap cap])
  | .nmul d a b cap => ("NMUL", [.n d, .n a, .n b, .cap cap])
  | .nlsh d a b cap => ("NLSH", [.n d, .n a, .w b, .cap cap])
  | .nrsh d a b cap => ("NRSH", [.n d, .n a, .w b, .cap cap])
  | .ncmp d e a b c => ("NCMP", [.w d, .w e, .n a, .n b, .w c])
  | .neq d a b => ("NEQ", [.w d, .n a, .n b])
  | .neqzero d a => ("NEQZERO", [.w d, .n a])
  | .modset a mk => ("MODSET", [.m mk, .n a])
  | .shiftaddin d e a mk => ("SHIFTADDIN", [.n d, .w e, .w a, .m mk])
  | .mod d a mk => ("MOD", [.n d, .n a, .m mk])
  | .div d a mk cap => ("DIV", [.n d, .n a, .m mk, .cap cap])
  | .modadd d a b mk => ("MODADD", [.n d, .n a, .n b, .m mk])
  | .modsub d a b mk => ("MODSUB", [.n d, .n a, .n b, .m mk])
  | .modneg d a mk => ("MODNEG", [.n d, .n a, .m mk])
  | .modmul d a b mk => ("MODMUL", [.n d, .n a, .n b, .m mk])
  | .montmul d a b mk => ("MONTMUL", [.n d, .n a, .n b, .m mk])
  | .montrep d a mk => ("MONTREP", [.n d, .n a, .m mk])
  | .exp d a b mk => ("EXP", [.n d, .n a, .n b, .m mk])
  | .modinv d a mk => ("MODINV", [.n d, .n a, .m mk])
  | .coprime d a b => ("COPRIME", [.w d, .n a, .n b])
  | .modsqrt d a mk => ("MODSQRT", [.n d, .n a, .m mk])

/-- The line of a listing: mnemonic, then the operands separated by commas
(30_encoding.md R133). -/
def Instr.line (i : Instr) : String :=
  match (Instr.assembly i).2 with
  | [] => (Instr.assembly i).1
  | ops => (Instr.assembly i).1 ++ " " ++ ", ".intercalate (ops.map Operand.text)

/-! ## Pseudo-commands (R134) -/

/-- The pseudo-commands, with their operands in the order of their syntax (30_encoding.md R134). -/
inductive Pseudo where
  | nclr (d : NReg)
  | nmov (d a : NReg)
  | condassign (d : NReg) (c : WReg) (a : NReg)
  | modsqr (d a : NReg) (mk : MReg)
  | wclr (d : WReg)
  | ntrunc (d : NReg) (cap : Int)
deriving DecidableEq, Repr

/-- The single command each stands for (30_encoding.md R134). -/
def Pseudo.expand : Pseudo → Instr
  | .nclr d => .nresize d d 0
  | .nmov d a => .ncopy d a
  | .condassign d c a => .ctcondcopy d a c
  | .modsqr d a mk => .modmul d a a mk
  | .wclr d => .wmovi d 0
  | .ntrunc d cap => .nresize d d cap

/-! ## Host operations of a listing (R133) -/

/-- `WR`, `RD` with offsets from ENGINE_BASE, and `WAIT` (30_encoding.md R133). -/
inductive HostOp where
  | wr (off : Nat) (v : BusWord)
  | rd (off : Nat)
  | wait
deriving DecidableEq, Repr

/-- The events of a host operation on the engine at `base`. `WAIT` reads STATUS until BUSY is 0; its
shortest run, the completion and one read, is the one taken here (log entry 2). -/
def HostOp.events (base : Nat) : HostOp → List Event
  | .wr off v => [.access ⟨base + off, 8, true, v⟩]
  | .rd off => [.access ⟨base + off, 8, false, 0⟩]
  | .wait => [.engine, .access ⟨base + 0x018, 8, false, 0⟩]

/-- The script of a listing (30_encoding.md R133; 70_reset_and_hazards.md R475). -/
def scriptOf (base : Nat) (ops : List HostOp) : List Event := ops.flatMap (HostOp.events base)

end Sys2Proof.Machine
end

