-- ==== Sys2Proof/Tests/Slice0.lean ====
section
/-!
SUPPORT. The model's own tests: ill-formed commands, one command word per constructor written out from
the encoding (30_encoding.md R121, R122, R128), at most two effects per command with the expected
results of 95_test_vectors.md, and a witness for the hypotheses of every obligation.
-/

open Sys2Proof Sys2Proof.Machine

namespace Sys2Proof.Tests

/-! ## Ill-formed commands are refused -/

theorem test_wf_imm32 : (Instr.wmovi 0 (2 ^ 32)).wellFormed = false := by decide
theorem test_wf_index16 : (Instr.ngetw 0 1 (2 ^ 16)).wellFormed = false := by decide
theorem test_wf_put_index16 : (Instr.nputw 0 1 (2 ^ 16)).wellFormed = false := by decide
theorem test_wf_count16 : (Instr.addvv 0 0 1 2 (2 ^ 16)).wellFormed = false := by decide
theorem test_wf_amount16 : (Instr.shlvu 0 0 1 1 (2 ^ 16)).wellFormed = false := by decide
theorem test_wf_cap_high : (Instr.nresize 0 1 (2 ^ 31)).wellFormed = false := by decide
theorem test_wf_cap_low : (Instr.div 0 1 0 (-2 ^ 31 - 1)).wellFormed = false := by decide
theorem test_wf_largest : (Instr.shrvu 15 15 15 (2 ^ 16 - 1) (2 ^ 16 - 1)).wellFormed = true := by
  decide

/-! ## Words, field by field: OP D E A B C (MK RSV) IMM -/

theorem test_word_nop : decode 0x0000000000000000 = .command (.nop) := by decide
theorem test_word_wmovi : decode 0x01F00000FFFFFFFF = .command (.wmovi 15 0xFFFFFFFF) := by decide
theorem test_word_nsetw : decode 0x0220100000000000 = .command (.nsetw 2 1) := by decide
theorem test_word_ngetw : decode 0x030010000000FFFE = .command (.ngetw 0 1 0xFFFE) := by decide
theorem test_word_nputw : decode 0x0400100000000001 = .command (.nputw 0 1 1) := by decide
theorem test_word_ncopy : decode 0x0520100000000000 = .command (.ncopy 2 1) := by decide
theorem test_word_cteq : decode 0x1000120000000000 = .command (.cteq 0 1 2) := by decide
theorem test_word_ctgt : decode 0x11F0E70000000000 = .command (.ctgt 15 14 7) := by decide
theorem test_word_ctifelse : decode 0x1200123000000000 = .command (.ctifelse 0 1 2 3) := by decide
theorem test_word_div1 : decode 0x1304123000000000 = .command (.div1 0 4 1 2 3) := by decide
theorem test_word_addvv : decode 0x2003120000000002 = .command (.addvv 0 3 1 2 2) := by decide
theorem test_word_subvv : decode 0x2103120000000001 = .command (.subvv 0 3 1 2 1) := by decide
theorem test_word_shlvu : decode 0x2203100000040001 = .command (.shlvu 0 3 1 1 4) := by decide
theorem test_word_shrvu : decode 0x23031000003F0002 = .command (.shrvu 0 3 1 2 63) := by decide
theorem test_word_addmulvvw : decode 0x2403120000000001 = .command (.addmulvvw 0 3 1 2 1) := by decide
theorem test_word_mulsubvvw : decode 0x2503120000000001 = .command (.mulsubvvw 0 3 1 2 1) := by decide
theorem test_word_addvw : decode 0x2603120000000002 = .command (.addvw 0 3 1 2 2) := by decide
theorem test_word_subvw : decode 0x2703120000008000 = .command (.subvw 0 3 1 2 0x8000) := by decide
theorem test_word_ctcondcopy : decode 0x2800102000000000 = .command (.ctcondcopy 0 1 2) := by decide
theorem test_word_ctcondswap : decode 0x2901002000000000 = .command (.ctcondswap 0 1 2) := by decide
theorem test_word_nresize : decode 0x3020200000000010 = .command (.nresize 2 2 16) := by decide
theorem test_word_nadd : decode 0x31001200FFFFFFFF = .command (.nadd 0 1 2 (-1)) := by decide
theorem test_word_nsub : decode 0x3200120080000000 = .command (.nsub 0 1 2 (-2147483648)) := by decide
theorem test_word_nmul : decode 0x330012007FFFFFFF = .command (.nmul 0 1 2 2147483647) := by decide
theorem test_word_nlsh : decode 0x3400120000000008 = .command (.nlsh 0 1 2 8) := by decide
theorem test_word_nrsh : decode 0x35001200FFFFFFFE = .command (.nrsh 0 1 2 (-2)) := by decide
theorem test_word_ncmp : decode 0x3601122000000000 = .command (.ncmp 0 1 1 2 2) := by decide
theorem test_word_neq : decode 0x3700120000000000 = .command (.neq 0 1 2) := by decide
theorem test_word_neqzero : decode 0x3800100000000000 = .command (.neqzero 0 1) := by decide
theorem test_word_modset : decode 0x4000100400000000 = .command (.modset 1 1) := by decide
theorem test_word_shiftaddin : decode 0x4113200C00000000 = .command (.shiftaddin 1 3 2 3) := by decide
theorem test_word_mod : decode 0x4240000400000000 = .command (.mod 4 0 1) := by decide
theorem test_word_div : decode 0x4320000400000080 = .command (.div 2 0 1 128) := by decide
theorem test_word_modadd : decode 0x5020110400000000 = .command (.modadd 2 1 1 1) := by decide
theorem test_word_modsub : decode 0x5140210000000000 = .command (.modsub 4 2 1 0) := by decide
theorem test_word_modneg : decode 0x5250100800000000 = .command (.modneg 5 1 2) := by decide
theorem test_word_modmul : decode 0x5330110000000000 = .command (.modmul 3 1 1 0) := by decide
theorem test_word_montmul : decode 0x6070560000000000 = .command (.montmul 7 5 6 0) := by decide
theorem test_word_montrep : decode 0x6140100000000000 = .command (.montrep 4 1 0) := by decide
theorem test_word_exp : decode 0x7030120000000000 = .command (.exp 3 1 2 0) := by decide
theorem test_word_modinv : decode 0x8020100000000000 = .command (.modinv 2 1 0) := by decide
theorem test_word_coprime : decode 0x8120100000000000 = .command (.coprime 2 1 0) := by decide
theorem test_word_modsqrt : decode 0x90F0E00C00000000 = .command (.modsqrt 15 14 3) := by decide

/-- 95_test_vectors.md 2.9, 2.1: the two decode errors, and which one wins. -/
theorem test_word_errors :
    decode 0x0600000000000000 = .illegal .illegalOpcode ∧
    decode 0x0600000100000000 = .illegal .illegalOpcode ∧
    decode 0x0000000100000000 = .illegal .reservedField ∧
    decode 0x2003120000010001 = .illegal .reservedField ∧
    decode 0x6020111400000000 = .illegal .reservedField := by decide

/-! ## Small states -/

/-- An idle engine with `W = 64` and `L = 4`, at ENGINE_BASE 0. -/
def blank : State := State.resetOf ⟨.w64, 3, 0⟩

/-- A Nat register set. -/
def withN (s : State) (i : NReg) (ann val : Nat) (tag : Option MReg := none) : State :=
  { s with n := s.n.set i.val ⟨ann, val, tag⟩ }

/-- A word register set. -/
def withW (s : State) (i : WReg) (v : Nat) : State := { s with w := s.w.set i.val v }

/-- A modulus register set. -/
def withM (s : State) (k : MReg) (r : ModReg) : State := { s with m := s.m.set k.val r }

/-- 13, as 95_test_vectors.md 2.3 gives its fields. -/
def m13 : ModReg := ⟨true, 13, 1, 60, 0xB13B13B13B13B13B, false⟩

/-- 10, even; its `m0inv` is any value. -/
def m10 : ModReg := ⟨true, 10, 1, 60, 0, true⟩

/-- 1, as 95_test_vectors.md 2.3 gives its fields. -/
def mOne : ModReg := ⟨true, 1, 1, 63, 2 ^ 64 - 1, false⟩

/-- `2^64 + 1`, as 95_test_vectors.md 2.3 gives its fields. -/
def mTwoLimbs : ModReg := ⟨true, 2 ^ 64 + 1, 2, 63, 2 ^ 64 - 1, false⟩

/-- 7, for which 3 is a non-residue. -/
def m7 : ModReg := ⟨true, 7, 1, 61, 0x9249249249249249, false⟩

/-- 21, composite. -/
def m21 : ModReg := ⟨true, 21, 1, 59, 0x30C30C30C30C30C3, false⟩

/-- A Nat register after a command. -/
def nat (o : Host.Outcome State Fault Refusal) (i : NReg) : Option NatReg :=
  match o with
  | .next t => some (t.nreg i)
  | .fault _ => none
  | .refused _ => none

/-- A word register after a command. -/
def word (o : Host.Outcome State Fault Refusal) (i : WReg) : Option Nat :=
  match o with
  | .next t => some (t.wreg i)
  | .fault _ => none
  | .refused _ => none

/-- A modulus register after a command. -/
def modulus (o : Host.Outcome State Fault Refusal) (k : MReg) : Option ModReg :=
  match o with
  | .next t => some (t.mreg k)
  | .fault _ => none
  | .refused _ => none

/-- STATUS after a command. -/
def status (o : Host.Outcome State Fault Refusal) : Option Nat :=
  match o with
  | .next t => some t.statusWord.toNat
  | .fault _ => none
  | .refused _ => none

/-! ## Effects (95_test_vectors.md part 2) -/

theorem test_nop_completes :
    status (exec (.nop) blank) = some 0x02 := by decide
theorem test_wmovi_zero_extends :
    word (exec (.wmovi 3 0xFFFFFFFF) blank) 3 = some (0x00000000FFFFFFFF) := by decide
theorem test_nsetw_zero :
    nat (exec (.nsetw 2 1) (withW blank 1 (0))) 2 = some ⟨64, 0, none⟩ := by decide
theorem test_nsetw_40 :
    nat (exec (.nsetw 2 1) (withW blank 1 (40))) 2 = some ⟨64, 40, none⟩ := by decide
theorem test_ngetw_limb :
    word (exec (.ngetw 0 1 1) (withN blank 1 128 (2 ^ 64 + 7))) 0 = some (1) := by decide
theorem test_ngetw_index :
    status (exec (.ngetw 0 1 4) (withN blank 1 128 (2 ^ 64 + 7))) = some 0x0506 := by decide
theorem test_nputw_masks :
    nat (exec (.nputw 0 1 1) (withW (withN blank 0 72 (0)) 1 (0x1FF))) 0 = some ⟨72, 0xFF * 2 ^ 64, none⟩ := by decide
theorem test_nputw_index :
    status (exec (.nputw 0 1 2) (withW (withN blank 0 72 (0)) 1 (0x1FF))) = some 0x0506 := by decide
theorem test_ncopy_tag :
    nat (exec (.ncopy 2 1) (withN (withM blank 0 m13) 1 8 (5) (some 0))) 2 = some ⟨8, 5, (some 0)⟩ := by decide
theorem test_cteq_equal :
    word (exec (.cteq 0 1 2) (withW (withW blank 1 (5)) 2 (5))) 0 = some (1) := by decide
theorem test_cteq_unequal :
    word (exec (.cteq 0 1 2) (withW (withW blank 1 (0)) 2 ((2 ^ 64 - 1)))) 0 = some (0) := by decide
theorem test_ctgt_unsigned :
    word (exec (.ctgt 0 1 2) (withW (withW blank 1 ((2 ^ 64 - 1))) 2 (0))) 0 = some (1) := by decide
theorem test_ctgt_strict :
    word (exec (.ctgt 0 1 2) (withW (withW blank 1 (7)) 2 (7))) 0 = some (0) := by decide
theorem test_ctifelse_one :
    word (exec (.ctifelse 0 1 2 3) (withW (withW (withW blank 1 (0xF0)) 2 (0x0F)) 3 (1))) 0 = some (0xF0) := by decide
theorem test_ctifelse_two :
    word (exec (.ctifelse 0 1 2 3) (withW (withW (withW blank 1 (0xF0)) 2 (0x0F)) 3 (2))) 0 = some (0xF1) := by decide
theorem test_div1_thirds :
    word (exec (.div1 0 4 1 2 3) (withW (withW (withW blank 1 (1)) 2 (0)) 3 (3))) 0 = some (0x5555555555555555) ∧
    word (exec (.div1 0 4 1 2 3) (withW (withW (withW blank 1 (1)) 2 (0)) 3 (3))) 4 = some (1) := by decide
theorem test_div1_largest :
    word (exec (.div1 0 4 1 2 3) (withW (withW (withW blank 1 ((2 ^ 64 - 1) - 1)) 2 ((2 ^ 64 - 1))) 3 ((2 ^ 64 - 1)))) 0 = some ((2 ^ 64 - 1)) ∧
    word (exec (.div1 0 4 1 2 3) (withW (withW (withW blank 1 ((2 ^ 64 - 1) - 1)) 2 ((2 ^ 64 - 1))) 3 ((2 ^ 64 - 1)))) 4 = some ((2 ^ 64 - 1) - 1) := by decide
theorem test_addvv_carry :
    nat (exec (.addvv 0 0 1 2 2) (withN (withN blank 1 128 (2 ^ 128 - 1)) 2 64 (1))) 0 = some ⟨128, 0, none⟩ ∧
    word (exec (.addvv 0 0 1 2 2) (withN (withN blank 1 128 (2 ^ 128 - 1)) 2 64 (1))) 0 = some (1) := by decide
theorem test_addvv_truncates :
    nat (exec (.addvv 0 0 1 2 1) (withN (withN blank 1 128 (2 ^ 64 + 5)) 2 64 (1))) 0 = some ⟨64, 6, none⟩ ∧
    word (exec (.addvv 0 0 1 2 1) (withN (withN blank 1 128 (2 ^ 64 + 5)) 2 64 (1))) 0 = some (0) := by decide
theorem test_subvv_borrow :
    nat (exec (.subvv 0 0 1 2 1) (withN (withN blank 1 64 (0)) 2 64 (1))) 0 = some ⟨64, (2 ^ 64 - 1), none⟩ ∧
    word (exec (.subvv 0 0 1 2 1) (withN (withN blank 1 64 (0)) 2 64 (1))) 0 = some (1) := by decide
theorem test_subvv_same :
    nat (exec (.subvv 0 0 1 1 2) (withN blank 1 64 (9))) 0 = some ⟨128, 0, none⟩ ∧
    word (exec (.subvv 0 0 1 1 2) (withN blank 1 64 (9))) 0 = some (0) := by decide
theorem test_shlvu_carry :
    nat (exec (.shlvu 0 0 1 1 4) (withN blank 1 64 (0xF000000000000001))) 0 = some ⟨64, 0x10, none⟩ ∧
    word (exec (.shlvu 0 0 1 1 4) (withN blank 1 64 (0xF000000000000001))) 0 = some (0xF) := by decide
theorem test_shlvu_amount :
    status (exec (.shlvu 0 0 1 1 64) (withN blank 1 64 (1))) = some 0x0606 := by decide
theorem test_shrvu_carry :
    nat (exec (.shrvu 0 0 1 1 4) (withN blank 1 64 (0xF000000000000001))) 0 = some ⟨64, 0x0F00000000000000, none⟩ ∧
    word (exec (.shrvu 0 0 1 1 4) (withN blank 1 64 (0xF000000000000001))) 0 = some (0x1000000000000000) := by decide
theorem test_shrvu_most :
    nat (exec (.shrvu 0 0 1 1 63) (withN blank 1 64 (3))) 0 = some ⟨64, 0, none⟩ ∧
    word (exec (.shrvu 0 0 1 1 63) (withN blank 1 64 (3))) 0 = some (6) := by decide
theorem test_addmulvvw_carry :
    nat (exec (.addmulvvw 0 3 1 2 1) (withW (withN (withN blank 0 64 (5)) 1 64 ((2 ^ 64 - 1))) 2 (2))) 0 = some ⟨64, 3, none⟩ ∧
    word (exec (.addmulvvw 0 3 1 2 1) (withW (withN (withN blank 0 64 (5)) 1 64 ((2 ^ 64 - 1))) 2 (2))) 3 = some (2) := by decide
theorem test_addmulvvw_zero :
    nat (exec (.addmulvvw 0 3 1 2 1) (withW (withN (withN blank 0 64 (5)) 1 64 ((2 ^ 64 - 1))) 2 (0))) 0 = some ⟨64, 5, none⟩ ∧
    word (exec (.addmulvvw 0 3 1 2 1) (withW (withN (withN blank 0 64 (5)) 1 64 ((2 ^ 64 - 1))) 2 (0))) 3 = some (0) := by decide
theorem test_mulsubvvw_borrow :
    nat (exec (.mulsubvvw 0 3 1 2 1) (withW (withN (withN blank 0 64 (5)) 1 64 (3)) 2 (2))) 0 = some ⟨64, (2 ^ 64 - 1), none⟩ ∧
    word (exec (.mulsubvvw 0 3 1 2 1) (withW (withN (withN blank 0 64 (5)) 1 64 (3)) 2 (2))) 3 = some (1) := by decide
theorem test_mulsubvvw_from_zero :
    nat (exec (.mulsubvvw 0 3 1 2 1) (withW (withN (withN blank 0 64 (0)) 1 64 (1)) 2 (1))) 0 = some ⟨64, (2 ^ 64 - 1), none⟩ ∧
    word (exec (.mulsubvvw 0 3 1 2 1) (withW (withN (withN blank 0 64 (0)) 1 64 (1)) 2 (1))) 3 = some (1) := by decide
theorem test_addvw_two_limbs :
    nat (exec (.addvw 0 3 1 2 2) (withW (withN blank 1 128 ((2 ^ 64 - 1))) 2 (1))) 0 = some ⟨128, 2 ^ 64, none⟩ ∧
    word (exec (.addvw 0 3 1 2 2) (withW (withN blank 1 128 ((2 ^ 64 - 1))) 2 (1))) 3 = some (0) := by decide
theorem test_addvw_carry :
    nat (exec (.addvw 0 3 1 2 1) (withW (withN blank 1 64 ((2 ^ 64 - 1))) 2 (1))) 0 = some ⟨64, 0, none⟩ ∧
    word (exec (.addvw 0 3 1 2 1) (withW (withN blank 1 64 ((2 ^ 64 - 1))) 2 (1))) 3 = some (1) := by decide
theorem test_subvw_borrow :
    nat (exec (.subvw 0 3 1 2 2) (withW (withN blank 1 64 (0)) 2 (1))) 0 = some ⟨128, 2 ^ 128 - 1, none⟩ ∧
    word (exec (.subvw 0 3 1 2 2) (withW (withN blank 1 64 (0)) 2 (1))) 3 = some (1) := by decide
theorem test_ctcondcopy_one :
    nat (exec (.ctcondcopy 0 1 2) (withW (withN (withN blank 0 8 (7)) 1 16 (300)) 2 (1))) 0 = some ⟨16, 300, none⟩ := by decide
theorem test_ctcondcopy_zero :
    nat (exec (.ctcondcopy 0 1 2) (withW (withN (withN blank 0 8 (7)) 1 16 (300)) 2 (0))) 0 = some ⟨16, 7, none⟩ := by decide
theorem test_ctcondswap_one :
    nat (exec (.ctcondswap 0 1 2) (withW (withN (withN blank 0 64 (1)) 1 64 (2)) 2 (1))) 0 = some ⟨64, 2, none⟩ ∧
    nat (exec (.ctcondswap 0 1 2) (withW (withN (withN blank 0 64 (1)) 1 64 (2)) 2 (1))) 1 = some ⟨64, 1, none⟩ := by decide
theorem test_ctcondswap_itself :
    nat (exec (.ctcondswap 0 0 2) (withW (withN blank 0 64 (1)) 2 (1))) 0 = some ⟨64, 1, none⟩ := by decide
theorem test_nresize_truncates :
    nat (exec (.nresize 0 1 8) (withN blank 1 9 (0x1FF))) 0 = some ⟨8, 0xFF, none⟩ := by decide
theorem test_nresize_no_default :
    status (exec (.nresize 0 1 (-1)) (withN blank 1 9 (0x1FF))) = some 0x0506 := by decide
theorem test_nadd_default :
    nat (exec (.nadd 0 1 2 (-1)) (withN (withN blank 1 8 (200)) 2 8 (100))) 0 = some ⟨9, 300, none⟩ := by decide
theorem test_nadd_cap :
    nat (exec (.nadd 0 1 2 8) (withN (withN blank 1 8 (200)) 2 8 (100))) 0 = some ⟨8, 44, none⟩ := by decide
theorem test_nsub_wraps :
    nat (exec (.nsub 0 1 2 (-1)) (withN (withN blank 1 8 (5)) 2 8 (7))) 0 = some ⟨8, 254, none⟩ := by decide
theorem test_nmul_default :
    nat (exec (.nmul 0 1 2 (-1)) (withN (withN blank 1 8 (200)) 2 8 (100))) 0 = some ⟨16, 20000, none⟩ := by decide
theorem test_nmul_full :
    nat (exec (.nmul 0 1 2 (-1)) (withN (withN blank 1 64 ((2 ^ 64 - 1))) 2 64 ((2 ^ 64 - 1)))) 0 = some ⟨128, 2 ^ 128 - 2 ^ 65 + 1, none⟩ := by decide
theorem test_nlsh_default :
    nat (exec (.nlsh 0 1 2 (-1)) (withW (withN blank 1 2 (3)) 2 (5))) 0 = some ⟨7, 96, none⟩ := by decide
theorem test_nlsh_far :
    nat (exec (.nlsh 0 1 2 8) (withW (withN blank 1 2 (3)) 2 (100))) 0 = some ⟨8, 0, none⟩ := by decide
theorem test_nrsh_default :
    nat (exec (.nrsh 0 1 2 (-1)) (withW (withN blank 1 7 (96)) 2 (5))) 0 = some ⟨2, 3, none⟩ := by decide
theorem test_nrsh_far :
    nat (exec (.nrsh 0 1 2 (-1)) (withW (withN blank 1 7 (96)) 2 (9))) 0 = some ⟨0, 0, none⟩ := by decide
theorem test_ncmp_equal :
    word (exec (.ncmp 0 1 1 2 2) (withN (withN blank 1 64 (5)) 2 8 (5))) 0 = some (0) ∧
    word (exec (.ncmp 0 1 1 2 2) (withN (withN blank 1 64 (5)) 2 8 (5))) 1 = some (1) ∧
    word (exec (.ncmp 0 1 1 2 2) (withN (withN blank 1 64 (5)) 2 8 (5))) 2 = some (0) := by decide
theorem test_ncmp_last_write :
    word (exec (.ncmp 0 0 1 2 0) (withN (withN blank 1 64 (9)) 2 64 (4))) 0 = some (0) := by decide
theorem test_neq_lengths :
    word (exec (.neq 0 1 2) (withN (withN blank 1 0 (0)) 2 128 (0))) 0 = some (1) := by decide
theorem test_neqzero_limb :
    word (exec (.neqzero 0 1) (withN blank 1 65 (2 ^ 64))) 0 = some (0) := by decide
theorem test_neqzero_empty :
    word (exec (.neqzero 0 1) blank) 0 = some (1) := by decide
theorem test_modset_13 :
    modulus (exec (.modset 0 0) (withN blank 0 64 (13))) 0 = some m13 := by decide
theorem test_modset_drops_tags :
    nat (exec (.modset 5 0) (withN (withN blank 5 64 (13)) 3 4 (2) (some 0))) 3 = some ⟨4, 2, none⟩ := by decide +kernel
theorem test_shiftaddin_13 :
    nat (exec (.shiftaddin 1 3 2 0) (withW (withN (withM blank 0 m13) 1 64 (18)) 2 (7))) 1 = some ⟨4, 9, (some 0)⟩ ∧
    word (exec (.shiftaddin 1 3 2 0) (withW (withN (withM blank 0 m13) 1 64 (18)) 2 (7))) 3 = some (7094901566811366006) := by decide
theorem test_shiftaddin_one :
    nat (exec (.shiftaddin 1 3 2 0) (withW (withN (withM blank 0 mOne) 1 64 (0)) 2 (42))) 1 = some ⟨1, 0, (some 0)⟩ ∧
    word (exec (.shiftaddin 1 3 2 0) (withW (withN (withM blank 0 mOne) 1 64 (0)) 2 (42))) 3 = some (42) := by decide
theorem test_mod_13 :
    nat (exec (.mod 2 1 0) (withN (withM blank 0 m13) 1 8 (40))) 2 = some ⟨4, 1, (some 0)⟩ := by decide
theorem test_mod_wide :
    nat (exec (.mod 2 1 0) (withN (withM blank 0 m13) 1 192 (2 ^ 128 + 5))) 2 = some ⟨4, 1, (some 0)⟩ := by decide
theorem test_div_limbs :
    nat (exec (.div 2 0 1 128) (withN (withM blank 1 mTwoLimbs) 0 192 (64 * 2 ^ 64 + 64 * 2 ^ 128))) 2 = some ⟨128, 64 * 2 ^ 64, none⟩ := by decide
theorem test_div_default :
    nat (exec (.div 2 1 0 (-1)) (withN (withM blank 0 m13) 1 3 (5))) 2 = some ⟨1, 0, none⟩ := by decide
theorem test_modadd_scenario :
    nat (exec (.modadd 0 1 1 0) (withN (withM blank 0 m13) 1 64 (40))) 0 = some ⟨4, 2, (some 0)⟩ := by decide
theorem test_modadd_to_zero :
    nat (exec (.modadd 0 1 2 0) (withN (withN (withM blank 0 m13) 1 64 (12)) 2 64 (1))) 0 = some ⟨4, 0, (some 0)⟩ := by decide
theorem test_modsub_scenario :
    nat (exec (.modsub 0 1 2 0) (withN (withN (withM blank 0 m13) 1 64 (0)) 2 64 (1))) 0 = some ⟨4, 12, (some 0)⟩ := by decide
theorem test_modneg_two_limbs :
    nat (exec (.modneg 0 1 1) (withN (withM blank 1 mTwoLimbs) 1 64 (1))) 0 = some ⟨65, 2 ^ 64, (some 1)⟩ := by decide
theorem test_modneg_zero :
    nat (exec (.modneg 0 1 0) (withN (withM blank 0 m13) 1 64 (26))) 0 = some ⟨4, 0, (some 0)⟩ := by decide
theorem test_modmul_scenario :
    nat (exec (.modmul 0 1 1 0) (withN (withM blank 0 m13) 1 64 (40))) 0 = some ⟨4, 1, (some 0)⟩ := by decide
theorem test_modmul_even :
    nat (exec (.modmul 0 1 2 0) (withN (withN (withM blank 0 m10) 1 64 (7)) 2 64 (9))) 0 = some ⟨4, 3, (some 0)⟩ := by decide
theorem test_montmul_13 :
    nat (exec (.montmul 0 1 2 0) (withN (withN (withM blank 0 m13) 1 64 (2)) 2 64 (1))) 0 = some ⟨4, 5, (some 0)⟩ := by decide
theorem test_montmul_even :
    status (exec (.montmul 0 1 2 0) (withN (withN (withM blank 0 m10) 1 64 (2)) 2 64 (1))) = some 0x0406 := by decide
theorem test_montrep_13 :
    nat (exec (.montrep 0 1 0) (withN (withM blank 0 m13) 1 64 (5))) 0 = some ⟨4, 2, (some 0)⟩ := by decide
theorem test_montrep_even :
    nat (exec (.montrep 0 1 1) (withN (withM blank 1 m10) 1 64 (3))) 0 = some ⟨4, 8, (some 1)⟩ := by decide
theorem test_exp_scenario :
    nat (exec (.exp 0 1 2 0) (withN (withN (withM blank 0 m13) 1 64 (3)) 2 16 (345))) 0 = some ⟨4, 1, (some 0)⟩ := by decide
theorem test_exp_zero :
    nat (exec (.exp 0 1 2 0) (withN (withN (withM blank 0 m13) 1 64 (0)) 2 64 (0))) 0 = some ⟨4, 1, (some 0)⟩ := by decide
theorem test_modinv_scenario :
    nat (exec (.modinv 0 1 0) (withN (withM blank 0 m13) 1 64 (2))) 0 = some ⟨4, 7, (some 0)⟩ := by decide
theorem test_modinv_even :
    nat (exec (.modinv 0 1 1) (withN (withM blank 1 m10) 1 64 (9))) 0 = some ⟨4, 9, (some 1)⟩ := by decide
theorem test_coprime_yes :
    word (exec (.coprime 0 1 2) (withN (withN blank 1 64 (9)) 2 64 (10))) 0 = some (1) := by decide
theorem test_coprime_zeros :
    word (exec (.coprime 0 1 2) blank) 0 = some (0) := by decide
theorem test_modsqrt_scenario :
    nat (exec (.modsqrt 0 1 0) (withN (withM blank 0 m13) 1 64 (4))) 0 = some ⟨4, 11, (some 0)⟩ := by decide
theorem test_modsqrt_formula :
    nat (exec (.modsqrt 0 1 1) (withN (withM blank 1 m7) 1 64 (3))) 0 = some ⟨3, 2, (some 1)⟩ := by decide

/-! ## The host's side (95_test_vectors.md 2.9, 2.10) -/

/-- One step from reset runs the word placed for it. -/
theorem test_step_runs_placed_word :
    word (step (State.reset.withFetchWord 64 0x01300000FFFFFFFF)) 3 = some 0xFFFFFFFF := by
  decide

theorem test_step_illegal_opcode :
    status (step (State.reset.withFetchWord 64 0x0600000000000000)) = some 0x0106 := by
  decide

/-- A narrowing write of NANN, 95_test_vectors.md 2.10. -/
theorem test_bus_narrows :
    nat (step { withN blank 0 9 0x1FF (some 0) with script := [blank.writeAt 0x200 8] }) 0 =
      some ⟨8, 0xFF, none⟩ := by decide

/-- A write of a limb beyond the announced length sets ACCERR, 95_test_vectors.md 2.10. -/
theorem test_bus_limb_dropped :
    status (step { withN blank 0 64 9 with script := [blank.writeAt 0x100008 5] }) =
      some 0x10 := by decide

/-- STATUS write-1-to-clear of everything, 95_test_vectors.md 2.10. -/
theorem test_bus_status_clears :
    status (step { blank with
      done := true, err := true, errcode := .shift, cmdovr := true, accerr := true
      script := [blank.writeAt 0x018 0x1E] }) = some 0 := by decide

/-! ## Listings (30_encoding.md R133, R134; 95_test_vectors.md) -/

theorem test_line_modset : (Instr.assembly (.modset 0 1)) = ("MODSET", [.m 1, .n 0]) := by decide

theorem test_pseudo_modsqr : (Pseudo.modsqr 0 1 2).expand = .modmul 0 1 1 2 := by decide

theorem test_pseudo_condassign : (Pseudo.condassign 0 2 1).expand = .ctcondcopy 0 1 2 := by decide

/-! ## Witnesses: a state in which no hypothesis is empty -/

/-- Word, Nat and modulus registers at the ends of their ranges; `m[3]` was never set. -/
def full : State :=
  withW (withW (withW (withN (withN (withN (withN (withM (withM (withM blank
    0 m13) 1 m10) 2 mOne) 1 256 (2 ^ 256 - 1)) 3 4 4 (some 0)) 4 64 9) 5 64 2)
    1 (2 ^ 64 - 1)) 3 1) 4 (2 ^ 64 - 2)

/-- `full` with `m[3] = 7`. -/
def full7 : State := withM full 3 m7

/-- `full` with `m[3] = 21`. -/
def full21 : State := withM full 3 m21

theorem full_inv : full.Inv := by decide

theorem full7_inv : full7.Inv := by decide

theorem full21_inv : full21.Inv := by decide

/-- An outcome that has a STATUS is a next state. -/
theorem next_of {o : Host.Outcome State Fault Refusal} (h : (status o).isSome = true) :
    ∃ t, o = .next t := by
  cases o with
  | next t => exact ⟨t, rfl⟩
  | fault r => exact absurd h (by simp [status])
  | refused r => exact absurd h (by simp [status])

/-- `full` with the command `v` accepted. -/
def running (v : BusWord) : State := { full with cmd := v, busy := true }

theorem running_inv : (running 0).Inv := by decide

/-! ### Reset, events and the bus -/

theorem witness_ResetGivesTheTableOfResetValues :
    State.Resets { full with script := [.reset] } ∧
      State.Resets { running 0 with script := [full.writeAt 0x010 3, .engine] } :=
  ⟨.inl ⟨[], rfl⟩, .inr ⟨_, _, rfl, rfl, rfl, rfl, rfl⟩⟩

theorem witness_CtrlWriteSetsIeThenResets :
    State.script { full with script := [full.writeAt 0x010 1] } = [full.writeAt 0x010 1] ∧
      (1 : BusWord).getLsbD 1 = false ∧
      State.script { full with script := [full.writeAt 0x010 2] } = [full.writeAt 0x010 2] ∧
      (2 : BusWord).getLsbD 1 = true := by decide

theorem witness_CmdWriteIsAcceptedOrDropped :
    State.script { full with script := [full.writeAt 0x020 0] } = [full.writeAt 0x020 0] ∧
      (full.busy = false ∧ full.err = false) ∧
      (State.busy { full with busy := true } = true ∨ State.err { full with busy := true } = true) ∧
      (State.busy { full with err := true } = true ∨ State.err { full with err := true } = true) := by
  decide

theorem witness_RegisterFileWritesOrDrops :
    State.script { full with script := [full.writeAt (0x100 + 8 * 15) 5] } =
        [full.writeAt (0x100 + 8 * 15) 5] ∧
      State.script { full with script := [full.writeAt (0x200 + 8 * 15) 256] } =
        [full.writeAt (0x200 + 8 * 15) 256] ∧
      3 < full.L ∧
      State.script { full with script := [full.writeAt (0x100000 + 0x10000 * 1 + 8 * 3) 5] } =
        [full.writeAt (0x100000 + 0x10000 * 1 + 8 * 3) 5] ∧
      ¬ full.L * full.W < 256 ∧ full.L * full.W < 257 ∧ ¬ nlimbs full.W (full.nreg 1).ann ≤ 3 ∧
      nlimbs full.W (full.nreg 4).ann ≤ 1 := by decide

theorem witness_StatusWriteClearsTheOnes :
    State.script { full with script := [full.writeAt 0x018 0x1E] } = [full.writeAt 0x018 0x1E] := by
  decide

theorem witness_RegisterFilesReadWhileIdle :
    (full.busy = false ∧ 3 < full.L ∧ nlimbs full.W (full.nreg 4).ann ≤ 3 ∧
      (full.mreg 0).size ≤ 3) ∧
    ((running 0).busy = true ∧ (BusReg.nlimb 15 3).Present (running 0).L ∧
      (BusReg.nlimb 15 3).isFile = true ∧ (BusReg.nlimb 15 3).offset = some 0x1F0018) :=
  ⟨by decide, rfl, (by decide : 3 < (running 0).L), rfl, rfl⟩

theorem witness_RegisterFilesReadWhileIdle_invariant : full.Inv := full_inv

theorem witness_ReservedAndReadOnlyAreInert :
    (reservedOffset full.L 0x038 ∧ 0x038 % 8 = 0) ∧ (reservedOffset full.L 0x3FFFF8 ∧
      0x3FFFF8 % 8 = 0) ∧ (reservedOffset full.L 0x100020 ∧ 0x100020 % 8 = 0) ∧
      ((BusReg.minv 3).Present full.L ∧ (BusReg.minv 3).ReadOnly ∧
        (BusReg.minv 3).offset = some 0x358) :=
  ⟨⟨.inl (by decide), rfl⟩, ⟨by unfold reservedOffset; omega, rfl⟩,
    ⟨by refine .inr (.inr (.inr (.inr (.inr (.inl ⟨by decide, by decide, ?_⟩))))); decide, rfl⟩,
    trivial, trivial, rfl⟩

theorem witness_BusErrorsChangeNoEngineState :
    (full.params.base ≤ 0x018 ∧ 0x018 < full.params.base + 0x400000 ∧
      ((4 : Nat) ≠ 8 ∨ (0x018 - full.params.base) % 8 ≠ 0)) ∧
    (full.params.base ≤ 0x3FFFFF ∧ 0x3FFFFF < full.params.base + 0x400000 ∧
      ((8 : Nat) ≠ 8 ∨ (0x3FFFFF - full.params.base) % 8 ≠ 0)) ∧
    (State.script { full with script := [.access ⟨0x018, 4, false, 0⟩] } =
      [.access ⟨0x018, 4, false, 0⟩]) := by decide

theorem witness_AddressMapIsOneToOne :
    (4 ≤ 8192 ∧ (BusReg.mlimb 3 3).Present 4 ∧ (BusReg.mlimb 3 3).offset = some 0x230018) ∧
      (0x3FFFF8 < 0x400000 ∧ 0x3FFFF8 % 8 = 0 ∧ reservedOffset 4 0x3FFFF8) ∧
      (0 < 0x400000 ∧ 0 % 8 = 0 ∧ ¬ reservedOffset 4 0) := by
  refine ⟨⟨by decide, (by decide : 3 < 4), rfl⟩, ⟨by decide, by decide, ?_⟩, by decide, by decide, ?_⟩
  all_goals unfold reservedOffset; omega

theorem witness_InterruptFollowsIeAndDone :
    (∃ t, completion (running 0) = .next t) ∧
    (State.script { full with script := [full.writeAt 0x020 0] } = [full.writeAt 0x020 0] ∧
      full.busy = false ∧ full.err = false ∧
      ∃ t, step { full with script := [full.writeAt 0x020 0] } = .next t) ∧
    ((0x1E : BusWord).getLsbD 1 = true ∧
      ∃ t, step { full with script := [full.writeAt 0x018 0x1E] } = .next t) ∧
    ((0 : BusWord).getLsbD 0 = false ∧
      ∃ t, step { full with script := [full.writeAt 0x010 0] } = .next t) :=
  ⟨next_of (by decide), ⟨rfl, rfl, rfl, next_of (by decide)⟩,
    ⟨by decide, next_of (by decide)⟩, ⟨by decide, next_of (by decide)⟩⟩

/-! ### Whole-machine rules -/

theorem witness_StepKeepsTheInvariant :
    (running 0).Inv ∧ ∃ t, step (running 0) = .next t := 
  ⟨running_inv, next_of (by decide)⟩

theorem witness_ModuliChangeOnlyByModsetOrReset :
    modulus (step { full with script := [.reset] }) 0 = some ModReg.empty ∧
      full.mreg 0 = m13 ∧ m13 ≠ ModReg.empty ∧
      modulus (step (running 0x4000400400000000)) 1 ≠ some ((running 0x4000400400000000).mreg 1) := by
  decide

theorem witness_CmdcntCountsCompletions :
    (State.EngineMoves (running 0) ∧ (running 0).busy = true ∧ ∃ t, step (running 0) = .next t) ∧
    (State.Resets { full with script := [.reset] } ∧
      ∃ t, step { full with script := [.reset] } = .next t) ∧
    (¬ (State.EngineMoves full ∧ full.busy = true) ∧ ¬ State.Resets full ∧
      ∃ t, step full = .next t) := by
  refine ⟨⟨.inl rfl, rfl, next_of (by decide)⟩,
    ⟨.inl ⟨[], rfl⟩, next_of (by decide)⟩, fun h => ?_, ?_, next_of (by decide)⟩
  · exact absurd h.2 (by decide)
  · rintro (⟨rest, h⟩ | ⟨x, rest, h, -⟩)
    · exact List.cons_ne_nil _ _ (h : ([] : List Event) = _ :: rest).symm
    · exact List.cons_ne_nil _ _ (h : ([] : List Event) = _ :: rest).symm

theorem witness_BusyEngineHoldsItsState :
    (running 0).busy = true ∧
      ¬ State.SoftReset (running 0) ⟨0x100, 8, true, 5⟩ ∧ (running 0).done = false ∧
      ∃ t, step { running 0 with script := [.access ⟨0x100, 8, true, 5⟩] } = .next t :=
  ⟨rfl, fun h => absurd h.1 (by decide), rfl, next_of (by decide)⟩

theorem witness_FaultLogOnlyGrows :
    State.EngineMoves (running 0x0600000000000000) ∧ (running 0x0600000000000000).busy = true ∧
      wordError (running 0x0600000000000000) ≠ .none ∧
      ∃ t, step (running 0x0600000000000000) = .next t :=
  ⟨.inl rfl, rfl, by decide, next_of (by decide)⟩

theorem witness_WordsCompleteWithTheFirstError_errors :
    wordError (running 0x5000440000000000) = .none ∧ wordError (running 0x5000440C00000000) ≠ .none := by
  decide

/-- Two states that differ in a secret only: the value of `n[4]`. -/
theorem witness_WordsCompleteWithTheFirstError :
    (running 0x5000440000000000).params = (withN (running 0x5000440000000000) 4 64 8).params ∧
      (running 0x5000440000000000).ModuliConsistent ∧
      (withN (running 0x5000440000000000) 4 64 8).ModuliConsistent ∧
      (running 0x5000440000000000).publicView =
        (withN (running 0x5000440000000000) 4 64 8).publicView ∧
      running 0x5000440000000000 ≠ withN (running 0x5000440000000000) 4 64 8 := by decide

/-- `n[3]` with its tag and without. -/
theorem witness_TagsChangeNoResult :
    State.SameButTags (running 0x5000330000000000) (withN (running 0x5000330000000000) 3 4 4) ∧
      ∃ t, completion (running 0x5000330000000000) = .next t :=
  ⟨⟨rfl, by decide⟩, next_of (by decide)⟩

theorem witness_ReservedOpcodesAreIllegal :
    reservedOpcode (bitsOf 0x0600000000000000 56 8) ∧
      reservedOpcode (bitsOf 0xFF00000000000000 56 8) ∧
      ¬ reservedOpcode (bitsOf 0x9000000000000000 56 8) := by
  refine ⟨.inl (by decide), ?_, ?_⟩
  · have : bitsOf 0xFF00000000000000 56 8 = 0xFF := by decide
    rw [this]; unfold reservedOpcode; omega
  · have : bitsOf 0x9000000000000000 56 8 = 0x90 := by decide
    rw [this]; unfold reservedOpcode; omega

theorem witness_CyclesDependOnThePublicView :
    (running 0x5000440000000000).publicView =
      (withN (running 0x5000440000000000) 4 64 8).publicView := by decide

theorem witness_ResultLengths_invariants :
    (running 0x5000440000000000).Inv ∧ (withN (running 0x5000440000000000) 4 64 8).Inv :=
  ⟨by decide, by decide⟩

theorem witness_ResultLengthsDependOnThePublicView :
    (running 0x5000440000000000).publicView =
        (withN (running 0x5000440000000000) 4 64 8).publicView ∧
      (running 0x5000440000000000).params =
        (withN (running 0x5000440000000000) 4 64 8).params ∧
      nat (completion (running 0x5000440000000000)) 0 = some ⟨4, 5, some 0⟩ ∧
      nat (completion (withN (running 0x5000440000000000) 4 64 8)) 0 = some ⟨4, 3, some 0⟩ := by
  decide

/-! ### Encoding and the step -/

theorem witness_DecodeOfEncodeIsTheCommand :
    (Instr.div 15 15 3 (-2 ^ 31)).wellFormed = true := by decide

theorem witness_EncodeOfDecodeIsTheWord :
    decode 0x43FFF00C80000000 = .illegal .reservedField ∧
      decode 0x43F0F00C80000000 = .command (.div 15 15 3 (-2 ^ 31)) := by decide

/-- Every row, with its opcode alone and with an RSV bit added: the hypotheses of every `Encoded` and
of `UnusedBitsAreReservedFieldErrors`. -/
theorem witness_encoded_rows :
    (opcodeRows.all fun r =>
      bitsOf (BitVec.ofNat 64 (r.op * 2 ^ 56)) 56 8 == r.op &&
      r.op == (BitVec.ofNat 64 (r.op * 2 ^ 56)).toNat / 2 ^ 56 &&
      ((List.range 64).all fun b =>
        !Format.unusedBit r.format b || !(BitVec.ofNat 64 (r.op * 2 ^ 56)).getLsbD b) &&
      bitsOf (BitVec.ofNat 64 (r.op * 2 ^ 56 + 2 ^ 32)) 56 8 == r.op &&
      Format.unusedBit r.format 32 &&
      (BitVec.ofNat 64 (r.op * 2 ^ 56 + 2 ^ 32)).getLsbD 32) = true := by decide

theorem witness_StepRunsTheDecodedCommand :
    ((running 0).busy = true ∧ decode (running 0).cmd = .command .nop ∧ (running 0).script = []) ∧
      State.script { running 0 with script := [.engine] } = .engine :: [] ∧ full.busy = false := by
  decide

theorem witness_IllegalWordsCompleteWithTheirError :
    ((running 0x0600000000000000).busy = true ∧
      decode (running 0x0600000000000000).cmd = .illegal .illegalOpcode) ∧
    ((running 0x0000000100000000).busy = true ∧
      decode (running 0x0000000100000000).cmd = .illegal .reservedField) ∧
    (running 0x0000000100000000).script = [] := by decide

/-! ### Commands -/

theorem witness_RegisterMovesAndNop :
    2 ^ 32 - 1 < 2 ^ 32 ∧ full.WordsFit ∧ full.NatsFit := by decide

theorem witness_LimbReadAndLimbWrite :
    3 < full.L ∧ (3 < full.L ∧ nlimbs full.W (full.nreg 4).ann ≤ 3 ∧ full.NatsFit) ∧ full.L ≤ 4 ∧
      3 < nlimbs full.W (full.nreg 1).ann ∧ nlimbs full.W (full.nreg 4).ann ≤ 1 := by
  decide

theorem witness_WordDecisions :
    full.WordsFit ∧ full.wreg 3 = 1 ∧ full.wreg 0 = 0 ∧ full.wreg 5 = full.wreg 6 := by
  decide

theorem witness_TwoWordByOneWordDivision :
    (full.WordsFit ∧ full.wreg 1 ≠ 0 ∧ full.wreg 4 < full.wreg 1) ∧
      (full.wreg 0 = 0 ∨ full.wreg 0 ≤ full.wreg 1) ∧
      (full.wreg 1 = 0 ∨ full.wreg 1 ≤ full.wreg 1) := by decide

/-- The count at both ends and outside, for ADDVV, SUBVV, ADDMULVVW, MULSUBVVW, ADDVW, SUBVW. -/
theorem witness_VectorAddAndSubtract :
    (1 ≤ 1 ∧ 1 ≤ full.L) ∧ (1 ≤ 4 ∧ 4 ≤ full.L) ∧ ((0 : Nat) = 0 ∨ full.L < 0) ∧
      (5 = 0 ∨ full.L < 5) := by decide

theorem witness_VectorMultiplyAccumulate :
    (1 ≤ 4 ∧ 4 ≤ full.L) ∧ full.WordsFit ∧ (5 = 0 ∨ full.L < 5) := by decide

theorem witness_VectorAndWord :
    (1 ≤ 4 ∧ 4 ≤ full.L) ∧ full.WordsFit ∧ (5 = 0 ∨ full.L < 5) := by decide

theorem witness_VectorShifts :
    ((1 ≤ 4 ∧ 4 ≤ full.L) ∧ 63 < full.W) ∧ (5 = 0 ∨ full.L < 5) ∧
      ((1 ≤ 1 ∧ 1 ≤ full.L) ∧ full.W ≤ 64) := by decide

theorem witness_ConditionalCopyAndSwap :
    full.NatsFit ∧ full.wreg 3 = 1 ∧ full.wreg 0 = 0 := by decide

theorem witness_NatArithmetic :
    ((0 : Int) ≤ 256 ∧ (256 : Int) ≤ full.L * full.W) ∧ ((-1 : Int) < 0) ∧
      ((full.L * full.W : Int) < 257) ∧
      max (full.nreg 3).ann (full.nreg 4).ann + 1 ≤ full.L * full.W ∧
      full.L * full.W < max (full.nreg 1).ann (full.nreg 4).ann + 1 ∧
      max (full.nreg 1).ann (full.nreg 4).ann ≤ full.L * full.W ∧
      (256 : Int).toNat ≤ full.L * full.W ∧ full.L * full.W < (257 : Int).toNat ∧
      (full.nreg 4).ann + (full.nreg 4).ann ≤ full.L * full.W ∧
      full.L * full.W < (full.nreg 1).ann + (full.nreg 4).ann := by decide

theorem witness_NatShifts :
    (full.nreg 4).ann + full.wreg 3 ≤ full.L * full.W ∧
      full.L * full.W < (full.nreg 4).ann + full.wreg 1 ∧
      (full.nreg 1).ann - full.wreg 0 ≤ full.L * full.W ∧
      full.L * full.W < (257 : Int).toNat := by decide

theorem witness_ModulusConstruction :
    (full.nreg 4).val % 2 = 1 ∧ ((full.nreg 5).val % 2 = 0 ∧ (full.nreg 5).val ≠ 0) ∧
      (full.nreg 0).val = 0 := by decide

/-- A valid odd and a valid even modulus, and one never set: SHIFTADDIN, MODADD, MODSUB, MODNEG, MODMUL,
MONTMUL, MONTREP, EXP. -/
theorem witness_ShiftWordIntoResidue :
    full.Inv ∧ (full.mreg 0).valid = true ∧ (full.mreg 3).valid = false := by decide

theorem witness_ModularArithmetic :
    full.Inv ∧ (full.mreg 2).valid = true ∧ (full.mreg 3).valid = false := by decide

theorem witness_MontgomeryProductAndForm :
    full.Inv ∧ ((full.mreg 0).valid = true ∧ (full.mreg 0).even = false) ∧
      ((full.mreg 1).valid = true ∧ (full.mreg 1).even = true) ∧
      (full.mreg 3).valid = false := by decide

theorem witness_ModularPower :
    full.Inv ∧ (full.mreg 1).valid = true ∧ (full.mreg 3).valid = false := by decide

theorem witness_RemainderAndQuotient :
    full.Inv ∧ (full.mreg 0).valid = true ∧ (full.nreg 3).tag = some 0 ∧
      (full.mreg 3).valid = false ∧ (256 : Int).toNat ≤ full.L * full.W ∧
      full.L * full.W < (257 : Int).toNat ∧
      (max ((full.nreg 4).ann - bitlen (full.mreg 0).val + 2 : Int) 0).toNat ≤ full.L * full.W ∧
      full.L * full.W <
        (max ((full.nreg 1).ann - bitlen (full.mreg 2).val + 2 : Int) 0).toNat := by
  decide

theorem witness_ModularInverse :
    full.Inv ∧ ((full.mreg 0).valid = true ∧
      Nat.gcd ((full.nreg 5).val % (full.mreg 0).val) (full.mreg 0).val = 1) ∧
      ((full.mreg 1).valid = true ∧
        Nat.gcd ((full.nreg 5).val % (full.mreg 1).val) (full.mreg 1).val ≠ 1) ∧
      (full.mreg 3).valid = false := by decide

theorem witness_ModularSquareRoot :
    (full.Inv ∧ (full.mreg 2).valid = true ∧ (full.mreg 2).val = 1) ∧
    (full7.Inv ∧ (full7.mreg 3).valid = true ∧ (full7.mreg 3).val % 4 = 3) ∧
    ((full.mreg 0).valid = true ∧ (full.mreg 0).val % 4 = 1 ∧ Nat.Prime (full.mreg 0).val ∧
      ∃ y, y * y % (full.mreg 0).val = (full.nreg 3).val % (full.mreg 0).val) ∧
    (full21.Inv ∧ (full21.mreg 3).valid = true ∧ (full21.mreg 3).val % 4 = 1 ∧
      (full21.mreg 3).val ≠ 1 ∧
      ¬ (Nat.Prime (full21.mreg 3).val ∧
        ∃ y, y * y % (full21.mreg 3).val = (full21.nreg 3).val % (full21.mreg 3).val)) ∧
    ((full.mreg 1).valid = true ∧ (full.mreg 1).even = true) ∧ (full.mreg 3).valid = false := by
  refine ⟨by decide, by decide,
    ⟨rfl, rfl, (by norm_num : Nat.Prime 13), 2, rfl⟩,
    ⟨full21_inv, rfl, rfl, by decide, fun h => ?_⟩, ⟨rfl, rfl⟩, rfl⟩
  exact (by norm_num : ¬ Nat.Prime 21) h.1

/-! ### Datapaths -/

theorem witness_DivisionLoopsDivide :
    (2 ^ 64 - 2 < 2 ^ 64 - 1 ∧ 2 ^ 64 - 1 < 2 ^ Width.w64.bits ∧ 2 ^ 64 - 1 < 2 ^ Width.w64.bits) ∧
      (0 < 1 ∧ 2 ^ 128 - 1 < 2 ^ (2 * 1 * Width.w64.bits) ∧ 1 < 2 ^ (1 * Width.w64.bits)) := by
  decide

theorem witness_NewtonGivesTheInverseWord : (2 ^ 64 - 1) % 2 = 1 := by decide

theorem witness_ReductionStepMeetsItsContract :
    1 ≤ 2 ^ 64 + 1 ∧ 2 ^ 64 < 2 ^ 64 + 1 ∧ 2 ^ 64 - 1 < 2 ^ Width.w64.bits := by decide

theorem witness_ReductionLoopsReduce :
    (1 ≤ 2 ^ 64 + 1 ∧ 2 ^ 192 - 1 < 2 ^ 192) ∧ 2 ^ 64 < 2 ^ 64 + 1 := by decide

theorem witness_ModularDatapathsComputeTheResults : 12 < 13 ∧ 11 < 13 := by decide

theorem witness_MontgomeryDatapathComputesTheProduct :
    13 % 2 = 1 ∧ 12 < 13 ∧ 11 < 13 ∧ 0xB13B13B13B13B13B < 2 ^ Width.w64.bits ∧
      (13 * 0xB13B13B13B13B13B + 1) % 2 ^ Width.w64.bits = 0 ∧ 1 ≤ nlimbs 64 (bitlen 13) := by
  decide

theorem witness_ExponentiationDatapathsGiveThePower :
    (12 < 13 ∧ 345 < 2 ^ (1 * Width.w64.bits)) ∧ 13 % 2 = 1 ∧
      0xB13B13B13B13B13B < 2 ^ Width.w64.bits ∧
      (13 * 0xB13B13B13B13B13B + 1) % 2 ^ Width.w64.bits = 0 := by decide

theorem witness_InverseDatapathsInvert :
    (12 < 13 ∧ Nat.gcd 12 13 = 1 ∧ 13 % 2 = 1) ∧ (9 < 10 ∧ Nat.gcd 9 10 = 1 ∧ 10 % 2 = 0) := by
  decide

theorem witness_ScanDatapathsDecide :
    9 < 2 ^ (1 * Width.w64.bits) ∧ 2 ^ 64 - 1 < 2 ^ (1 * Width.w64.bits) := by decide


end Sys2Proof.Tests
end

section
/-!
PROOFS. 00_scope.md R13: the announced lengths, the tags and the shape of the moduli after a completion
do not depend on secrets. `State.lengths` abstracts a state to exactly these; every operation of a command
acts on the abstraction through public data alone.
-/

namespace Sys2Proof.Machine

/-! ## The abstraction of a state to its lengths -/

/-- The part of a modulus register that a result may show: valid, size and leading. The even field
is left out, because MODSET makes it of a secret bit of its operand. -/
def ModReg.lengths (r : ModReg) : Bool × Nat × Nat := (r.valid, r.size, r.leading)

/-- What a completion may show of the register files: the announced length and the tag of every Nat
register, and `ModReg.lengths` of every modulus register. -/
structure Lengths where
  nats : NReg → Nat × Option MReg
  mods : MReg → Bool × Nat × Nat

/-- The lengths of a state's register files. -/
def State.lengths (s : State) : Lengths := ⟨fun i => (s.nreg i).public, fun k => (s.mreg k).lengths⟩

/-- The lengths that an outcome leaves; none when the model stops. -/
def lengthsAfter : Host.Outcome State Fault Refusal → Option Lengths
  | .next s => some s.lengths
  | .fault _ => none
  | .refused _ => none

/-- What a write of a Nat register does to the lengths. -/
def Lengths.setNat (l : Lengths) (i : NReg) (a : Nat) (t : Option MReg) : Lengths :=
  { l with nats := Function.update l.nats i (a, t) }

/-- What a write of a modulus register does to the lengths: the tags that name it are dropped. -/
def Lengths.setMod (l : Lengths) (k : MReg) (r : Bool × Nat × Nat) : Lengths where
  nats i := if (l.nats i).2 = some k then ((l.nats i).1, none) else l.nats i
  mods := Function.update l.mods k r

section
variable (s : State)

@[simp] theorem State.lengths_setW (i : WReg) (v : Nat) : (s.setW i v).lengths = s.lengths := rfl
@[simp] theorem State.lengths_drawn : s.drawn.lengths = s.lengths := rfl
@[simp] theorem State.lengths_complete : s.complete.lengths = s.lengths := rfl
@[simp] theorem State.lengths_fail (e : ErrCode) : (s.fail e).lengths = s.lengths := rfl

/-- The lengths after a write do not depend on the value written. -/
@[simp] theorem State.lengths_setN (i : NReg) (a v : Nat) (t : Option MReg) :
    (s.setN i a v t).lengths = s.lengths.setNat i a t := by
  refine congrArg (Lengths.mk · _) (funext fun j => ?_)
  rw [State.nreg_setN, Function.update_apply]
  split <;> rfl

@[simp] theorem State.lengths_setM (k : MReg) (r : ModReg) :
    (s.setM k r).lengths = s.lengths.setMod k r.lengths := by
  refine congrArg₂ Lengths.mk (funext fun i => ?_) (funext fun j => ?_)
  · rw [State.nreg_setM]
    exact apply_ite NatReg.public _ _ _
  · rw [State.mreg_setM, Function.update_apply]
    exact apply_ite ModReg.lengths _ _ _

@[simp] theorem State.lengths_putVec (d : NReg) (e : WReg) (k : Nat) (r : Nat × Nat) :
    (s.putVec d e k r).lengths = s.lengths.setNat d (k * s.W) none := by
  simp [State.putVec]

@[simp] theorem State.lengths_setResidue (d : NReg) (mk : MReg) (md : ModReg) (r : Nat) :
    (s.setResidue d mk md r).lengths = s.lengths.setNat d (bitlen md.val) (some mk) := by
  simp [State.setResidue]

@[simp] theorem State.lengths_drawResidue (d : NReg) (mk : MReg) (md : ModReg) :
    (s.drawResidue d mk md).lengths = s.lengths.setNat d (bitlen md.val) (some mk) := by
  simp [State.drawResidue]

@[simp] theorem lengthsAfter_finish : lengthsAfter (finish s) = some s.lengths := rfl
@[simp] theorem lengthsAfter_abort (e : ErrCode) : lengthsAfter (abort s e) = some s.lengths := rfl

/-! ## Commands whose branches on a secret all leave the same lengths -/

theorem lengthsAfter_ngetw (d : WReg) (a : NReg) (j : Nat) :
    lengthsAfter (execNgetw d a j s) = some s.lengths := by
  unfold execNgetw
  split <;> simp

theorem lengthsAfter_div1 (d e a b c : WReg) :
    lengthsAfter (execDiv1 d e a b c s) = some s.lengths := by
  unfold execDiv1
  split <;> simp

theorem lengthsAfter_withModulus_congr (mk : MReg) {f g : ModReg → Host.Outcome State Fault Refusal}
    (hfg : ∀ md, lengthsAfter (f md) = lengthsAfter (g md)) :
    lengthsAfter (withModulus s mk f) = lengthsAfter (withModulus s mk g) := by
  unfold withModulus
  split
  · exact hfg _
  · rfl

theorem lengthsAfter_withOddModulus_congr (mk : MReg) {f g : ModReg → Host.Outcome State Fault Refusal}
    (hfg : ∀ md, lengthsAfter (f md) = lengthsAfter (g md)) :
    lengthsAfter (withOddModulus s mk f) = lengthsAfter (withOddModulus s mk g) := by
  refine lengthsAfter_withModulus_congr s mk fun md => ?_
  split
  · rfl
  · exact hfg md

/-- A coprime and a non-coprime operand of MODINV leave the same lengths (46_inverse.md R340). -/
theorem lengthsAfter_modinv (d a : NReg) (mk : MReg) :
    lengthsAfter (execModinv d a mk s) =
      lengthsAfter (withModulus s mk fun md => finish (s.setResidue d mk md 0)) := by
  refine lengthsAfter_withModulus_congr s mk fun md => ?_
  split <;> simp

/-- All cases of 47_modsqrt.md R360 leave the same lengths. -/
theorem lengthsAfter_modsqrt (d a : NReg) (mk : MReg) :
    lengthsAfter (execModsqrt d a mk s) =
      lengthsAfter (withOddModulus s mk fun md => finish (s.setResidue d mk md 0)) := by
  refine lengthsAfter_withOddModulus_congr s mk fun md => ?_
  dsimp only
  repeat' split
  all_goals simp

/-- The even and the odd operand of MODSET leave the same lengths (42_modulus_reduction.md R240). -/
theorem lengthsAfter_modset (a : NReg) (mk : MReg) :
    lengthsAfter (execModset a mk s) =
      some (if (s.nreg a).val = 0 then s.lengths
        else s.lengths.setMod mk (modulusOf s.W (s.nreg a).val 0).lengths) := by
  unfold execModset
  simp only
  repeat' split
  all_goals simp [modulusOf, ModReg.lengths]

end

/-! ## Bit lengths -/

theorem bitlen_eq_zero_iff (v : Nat) : bitlen v = 0 ↔ v = 0 := by
  simpa using bitlen_le_iff v 0

/-- The size and leading fields of a valid modulus give its bit length (10_state.md R41). -/
theorem ModReg.Consistent.bitlen_val {W L : Nat} {r : ModReg} (h : r.Consistent W L) (hW : 0 < W)
    (hv : r.valid = true) : bitlen r.val = r.bitLen W := by
  obtain ⟨-, hsize, -, hlead, -⟩ := h.2 hv
  have hle : bitlen r.val ≤ r.size * W := hsize ▸ le_nlimbs_mul hW _
  rw [ModReg.bitLen, hlead]
  omega

/-- The shape of a constructed modulus is made of the bit length of its value. -/
theorem modulusOf_lengths_congr (W : Nat) {v v' : Nat} (m0inv m0inv' : Nat)
    (h : bitlen v = bitlen v') :
    (modulusOf W v m0inv).lengths = (modulusOf W v' m0inv').lengths := by
  simp [modulusOf, ModReg.lengths, h]

/-! ## Two states with the same public registers -/

/-- The states agree in all that is public of their register files, the `leak` of a command aside:
the bit length of a valid modulus follows from its size and leading fields. -/
structure State.SamePublic (s t : State) : Prop where
  params     : s.params = t.params
  lengths    : s.lengths = t.lengths
  even       : ∀ k, (s.mreg k).even = (t.mreg k).even
  bitlen_val : ∀ k, (s.mreg k).valid = true → bitlen (s.mreg k).val = bitlen (t.mreg k).val

section
variable {s t : State}

theorem State.nreg_public_of_publicView (h : s.publicView = t.publicView) (i : NReg) :
    (s.nreg i).public = (t.nreg i).public := by
  have hi := congrArg (·.nats[i.val]?) h
  simpa [State.publicView, State.nreg] using hi

theorem State.mreg_public_of_publicView (h : s.publicView = t.publicView) (k : MReg) :
    (s.mreg k).public = (t.mreg k).public := by
  have hk := congrArg (·.mods[k.val]?) h
  simpa [State.publicView, State.mreg] using hk

theorem leakOf_of_publicView (h : s.publicView = t.publicView) {i : Instr}
    (hi : decode s.cmd = .command i) : leakOf s i = leakOf t i := by
  have hcmd : s.cmd = t.cmd := congrArg PublicView.cmd h
  simpa [State.publicView, ← hcmd, hi] using congrArg PublicView.leak h

theorem State.samePublic_of_publicView (hp : s.params = t.params) (hs : s.ModuliConsistent)
    (ht : t.ModuliConsistent) (h : s.publicView = t.publicView) : s.SamePublic t := by
  have hmod (k : MReg) : (s.mreg k).valid = (t.mreg k).valid ∧ (s.mreg k).size = (t.mreg k).size ∧
      (s.mreg k).leading = (t.mreg k).leading := by
    have hk := mreg_public_of_publicView h k
    simp only [ModReg.public, Prod.mk.injEq] at hk
    obtain ⟨hvalid, hsize, hlead, -⟩ := hk
    exact ⟨hvalid, hsize, hlead⟩
  have hW : s.W = t.W := congrArg (·.width.bits) hp
  refine ⟨hp, congrArg₂ Lengths.mk (funext (nreg_public_of_publicView h)) (funext fun k => ?_),
    fun k => congrArg (·.2.2.2) (mreg_public_of_publicView h k), fun k hv => ?_⟩
  · obtain ⟨hvalid, hsize, hlead⟩ := hmod k
    simp only [ModReg.lengths, hvalid, hsize, hlead]
  · obtain ⟨hvalid, hsize, hlead⟩ := hmod k
    rw [(hs k).bitlen_val s.W_pos hv, (ht k).bitlen_val t.W_pos (hvalid ▸ hv), ModReg.bitLen,
      ModReg.bitLen, hsize, hlead, hW]

namespace State.SamePublic
variable (h : s.SamePublic t)
include h

theorem width : s.W = t.W := congrArg (·.width.bits) h.params

theorem limbs : s.L = t.L := congrArg Params.limbs h.params

theorem ann (i : NReg) : (s.nreg i).ann = (t.nreg i).ann :=
  congrArg (fun l => (l.nats i).1) h.lengths

theorem tag (i : NReg) : (s.nreg i).tag = (t.nreg i).tag :=
  congrArg (fun l => (l.nats i).2) h.lengths

theorem valid (k : MReg) : (s.mreg k).valid = (t.mreg k).valid :=
  congrArg (fun l => (l.mods k).1) h.lengths

/-! ### The forms of a command -/

theorem after_setN (d : NReg) {a a' : Nat} (v v' : Nat) {tg tg' : Option MReg} (ha : a = a')
    (htg : tg = tg') :
    lengthsAfter (finish (s.setN d a v tg)) = lengthsAfter (finish (t.setN d a' v' tg')) := by
  simp [ha, htg, h.lengths]

theorem after_vectorCommand (d : NReg) (e : WReg) (k : Nat) (r r' : Nat × Nat) :
    lengthsAfter (vectorCommand s d e k r) = lengthsAfter (vectorCommand t d e k r') := by
  rw [vectorCommand_eq, vectorCommand_eq, h.limbs]
  split <;> simp [h.lengths, h.width]

theorem after_vectorShift (d : NReg) (e : WReg) (k amount : Nat) (r r' : Nat × Nat) :
    lengthsAfter (vectorShift s d e k amount r) = lengthsAfter (vectorShift t d e k amount r') := by
  rw [vectorShift_eq, vectorShift_eq, h.limbs, h.width]
  repeat' split
  all_goals simp [h.lengths, h.width]

theorem after_cappedCommand (d : NReg) {cap cap' : Nat} (r r' : Nat → Nat) (hcap : cap = cap') :
    lengthsAfter (cappedCommand s d cap r) = lengthsAfter (cappedCommand t d cap' r') := by
  rw [cappedCommand_eq, cappedCommand_eq, h.limbs, h.width, hcap]
  split <;> simp [h.lengths]

theorem after_withModulus (mk : MReg) {f g : ModReg → Host.Outcome State Fault Refusal}
    (hfg : (s.mreg mk).valid = true →
      lengthsAfter (f (s.mreg mk)) = lengthsAfter (g (t.mreg mk))) :
    lengthsAfter (withModulus s mk f) = lengthsAfter (withModulus t mk g) := by
  cases hv : (s.mreg mk).valid with
  | true => rw [withModulus_valid s hv, withModulus_valid t (h.valid mk ▸ hv), hfg hv]
  | false => simp [withModulus_invalid s hv, withModulus_invalid t (h.valid mk ▸ hv), h.lengths]

theorem after_withOddModulus (mk : MReg) {f g : ModReg → Host.Outcome State Fault Refusal}
    (hfg : (s.mreg mk).valid = true →
      lengthsAfter (f (s.mreg mk)) = lengthsAfter (g (t.mreg mk))) :
    lengthsAfter (withOddModulus s mk f) = lengthsAfter (withOddModulus t mk g) := by
  refine h.after_withModulus mk fun hv => ?_
  rw [h.even]
  split
  · simp [h.lengths]
  · exact hfg hv

/-- A written residue has the bit length of its modulus as announced length. -/
theorem after_setResidue (d : NReg) {mk : MReg} (r r' : Nat) (hv : (s.mreg mk).valid = true) :
    lengthsAfter (finish (s.setResidue d mk (s.mreg mk) r)) =
      lengthsAfter (finish (t.setResidue d mk (t.mreg mk) r')) := by
  simp [h.lengths, h.bitlen_val mk hv]

/-! ### Commands with a form of their own -/

theorem after_nputw (d : NReg) (a : WReg) (j : Nat) :
    lengthsAfter (execNputw d a j s) = lengthsAfter (execNputw d a j t) := by
  unfold execNputw
  rw [h.ann d, h.width]
  split <;> simp [h.lengths]

theorem after_ctcondswap (d e : NReg) (c : WReg) :
    lengthsAfter (execCtcondswap d e c s) = lengthsAfter (execCtcondswap d e c t) := by
  simp [execCtcondswap, h.lengths, h.ann]

theorem after_nresize (d a : NReg) (cap : Int) :
    lengthsAfter (execNresize d a cap s) = lengthsAfter (execNresize d a cap t) := by
  unfold execNresize
  split
  · simp [h.lengths]
  · exact h.after_cappedCommand d _ _ rfl

theorem after_shiftaddin (d : NReg) (e a : WReg) (mk : MReg) :
    lengthsAfter (execShiftaddin d e a mk s) = lengthsAfter (execShiftaddin d e a mk t) :=
  h.after_withModulus mk fun hv => by simp [h.lengths, h.bitlen_val mk hv]

/-- MODSET makes the bit length of its operand public (00_scope.md R13). -/
theorem after_modset (a : NReg) (mk : MReg)
    (hlen : bitlen (s.nreg a).val = bitlen (t.nreg a).val) :
    lengthsAfter (execModset a mk s) = lengthsAfter (execModset a mk t) := by
  have hzero : (s.nreg a).val = 0 ↔ (t.nreg a).val = 0 := by
    rw [← bitlen_eq_zero_iff, hlen, bitlen_eq_zero_iff]
  rw [lengthsAfter_modset, lengthsAfter_modset, h.lengths, h.width,
    modulusOf_lengths_congr t.W 0 0 hlen]
  simp only [hzero]

/-- Every command, on two states that agree in all that is public, leaves the same lengths. -/
theorem after_exec {i : Instr} (hleak : leakOf s i = leakOf t i) :
    lengthsAfter (exec i s) = lengthsAfter (exec i t) := by
  have words : some s.lengths = some t.lengths := congrArg some h.lengths
  unfold exec
  cases i with
  | nop | wmovi | cteq | ctgt | ctifelse | ncmp | neq | neqzero | coprime => exact words
  | ngetw => simpa only [lengthsAfter_ngetw] using words
  | div1 => simpa only [lengthsAfter_div1] using words
  | nsetw d a => exact h.after_setN d _ _ h.width rfl
  | nputw d a j => exact h.after_nputw d a j
  | ncopy d a => exact h.after_setN d _ _ (h.ann a) (h.tag a)
  | addvv d e _ _ k | subvv d e _ _ k | addmulvvw d e _ _ k | mulsubvvw d e _ _ k
  | addvw d e _ _ k | subvw d e _ _ k => exact h.after_vectorCommand d e k _ _
  | shlvu d e _ k amount | shrvu d e _ k amount => exact h.after_vectorShift d e k amount _ _
  | ctcondcopy d a c => exact h.after_setN d _ _ (by rw [h.ann d, h.ann a]) rfl
  | ctcondswap d e c => exact h.after_ctcondswap d e c
  | nresize d a cap => exact h.after_nresize d a cap
  | nadd d a b | nsub d a b | nmul d a b =>
    exact h.after_cappedCommand d _ _ (by rw [h.ann a, h.ann b])
  | nlsh d a b | nrsh d a b =>
    have hamount : s.wreg b = t.wreg b := Option.some.inj hleak
    exact h.after_cappedCommand d _ _ (by rw [h.ann a, hamount])
  | modset a mk => exact h.after_modset a mk (Option.some.inj hleak)
  | shiftaddin d e a mk => exact h.after_shiftaddin d e a mk
  | div d a mk =>
    exact h.after_withModulus mk fun hv =>
      h.after_cappedCommand d _ _ (by rw [h.ann a, h.bitlen_val mk hv])
  | modadd d _ _ mk | modsub d _ _ mk | modmul d _ _ mk | exp d _ _ mk
  | mod d _ mk | modneg d _ mk | montrep d _ mk =>
    exact h.after_withModulus mk (h.after_setResidue d _ _)
  | montmul d _ _ mk =>
    exact h.after_withOddModulus mk (h.after_setResidue d _ _)
  | modinv d a mk =>
    simpa only [lengthsAfter_modinv] using h.after_withModulus mk (h.after_setResidue d 0 0)
  | modsqrt d a mk =>
    simpa only [lengthsAfter_modsqrt] using h.after_withOddModulus mk (h.after_setResidue d 0 0)

/-- A word that is no command changes no register file, whatever its error. -/
theorem after_completion (hv : s.publicView = t.publicView) :
    lengthsAfter (completion s) = lengthsAfter (completion t) := by
  have hcmd : s.cmd = t.cmd := congrArg PublicView.cmd hv
  unfold completion
  rw [← hcmd]
  cases hd : decode s.cmd with
  | command i => exact h.after_exec (leakOf_of_publicView hv hd)
  | illegal e => exact congrArg some h.lengths

end State.SamePublic

/-- Equal lengths, register by register. -/
theorem State.registers_of_lengths (h : s.lengths = t.lengths) :
    (∀ i : NReg, (s.nreg i).ann = (t.nreg i).ann ∧ (s.nreg i).tag = (t.nreg i).tag) ∧
    (∀ k : MReg, (s.mreg k).valid = (t.mreg k).valid ∧ (s.mreg k).size = (t.mreg k).size ∧
      (s.mreg k).leading = (t.mreg k).leading) :=
  ⟨fun i => Prod.mk.inj (congrArg (·.nats i) h),
    fun k => by simpa [State.lengths, ModReg.lengths] using congrArg (·.mods k) h⟩

end

/-- Settles O22: a completion acts on the lengths of the register files through the public view alone,
the bit length of a valid modulus being its `size * W - leading`. -/
theorem resultLengthsDependOnThePublicView : Obligations.ResultLengthsDependOnThePublicView := by
  intro s t s' t' hp hs ht hv hs' ht'
  obtain ⟨-, -, -, hsm, -⟩ := hs
  obtain ⟨-, -, -, htm, -⟩ := ht
  have h := (State.samePublic_of_publicView hp hsm htm hv).after_completion hv
  rw [hs', ht'] at h
  exact State.registers_of_lengths (Option.some.inj h)

end Sys2Proof.Machine
end
section
/-!
PROOFS. What one step can do, said once: the engine completes or is idle, the engine is reset, or the
host makes another access; what a host access leaves unchanged (20_memory.md R82 to R98).
-/

namespace Sys2Proof.Machine

/-- The state with the next event taken off the script. -/
def State.advance (s : State) : State := { s with script := s.script.tail }

variable {s t : State}

/-! ## The step by the next event -/

theorem step_of_engineMoves (h : s.EngineMoves) : step s = engineStep s.advance := by
  obtain hs | ⟨rest, hs⟩ := h
  · have : s.advance = s := by rw [State.advance, hs, List.tail_nil, ← hs]
    simp [step, hs, this]
  · simp [step, hs, runEvent, State.advance]

theorem step_of_access {x : Access} {rest : List Event} (h : s.script = .access x :: rest) :
    step s = busAccess x s.advance := by
  simp [step, h, runEvent, State.advance]

/-! ## One access -/

@[simp] theorem locate_eq_ctrl_iff (L off : Nat) : locate L off = .ctrl ↔ off = 0x010 := by
  simp only [locate, ite_eq_iff, reduceCtorEq, and_false, and_true, or_false, false_or]
  omega

/-- An access that the engine answers is refused, a read, or a write at an offset of the window. -/
theorem busAccess_cases {x : Access} (h : busAccess x s = .next t) :
    t = s.refuseAccess x ∨ (∃ r, t = busRead s r) ∨
      (s.params.base ≤ x.addr ∧ x.size = 8 ∧ x.write = true ∧
        t = busWrite s (locate s.L (x.addr - s.params.base)) x.data) := by
  unfold busAccess at h
  split at h
  · cases h
  · next hin =>
    split at h
    · exact .inl (by simpa using h.symm)
    · next hok =>
      split at h
      · next hw => exact .inr (.inr ⟨by omega, by omega, hw, by simpa using h.symm⟩)
      · exact .inr (.inl ⟨_, by simpa using h.symm⟩)

/-- An aligned 8-byte read inside the window is served. -/
theorem busAccess_read {off : Nat} (hw : off < windowSize) (ha : off % 8 = 0) (v : BusWord) :
    busAccess ⟨s.params.base + off, 8, false, v⟩ s = .next (busRead s (locate s.L off)) := by
  have hin : ¬ s.params.base + windowSize ≤ s.params.base + off := by omega
  simp [busAccess, ha, hin]

/-- An aligned 8-byte write inside the window is served. -/
theorem busAccess_write {off : Nat} (hw : off < windowSize) (ha : off % 8 = 0) (v : BusWord) :
    busAccess ⟨s.params.base + off, 8, true, v⟩ s = .next (busWrite s (locate s.L off) v) := by
  have hin : ¬ s.params.base + windowSize ≤ s.params.base + off := by omega
  simp [busAccess, ha, hin]

theorem step_of_readAt {off : Nat} {rest : List Event} (h : s.script = s.readAt off :: rest)
    (hw : off < windowSize) (ha : off % 8 = 0) :
    step s = .next (busRead s.advance (locate s.L off)) :=
  (step_of_access h).trans (busAccess_read (s := s.advance) hw ha 0)

theorem step_of_writeAt {off : Nat} {v : BusWord} {rest : List Event}
    (h : s.script = s.writeAt off v :: rest) (hw : off < windowSize) (ha : off % 8 = 0) :
    step s = .next (busWrite s.advance (locate s.L off) v) :=
  (step_of_access h).trans (busAccess_write (s := s.advance) hw ha v)

/-! ## Reset -/

/-- The state after reset is the reset of itself. -/
theorem State.engineReset_resetOf (p : Params) : (State.resetOf p).engineReset = State.resetOf p := rfl

theorem busAccess_softReset {x : Access} (h : s.SoftReset x) :
    busAccess x s = .next (s.engineReset.answer 0) := by
  obtain ⟨addr, size, write, data⟩ := x
  obtain ⟨haddr, hsize, hwrite, hdata⟩ := h
  subst haddr hsize hwrite
  rw [busAccess_write (by decide) rfl, (locate_eq_ctrl_iff _ _).mpr rfl]
  simp only [busWrite, State.writeReg, State.writeCtrl, hdata, if_true]
  rfl

/-- Hardware and soft reset lead to the reset values; a soft reset is also answered
(70_reset_and_hazards.md R450, R451). -/
theorem step_of_resets (h : s.Resets) :
    ∃ r, step s = .next (State.engineReset { s.advance with reply := r }) := by
  obtain ⟨rest, hs⟩ | ⟨x, rest, hs, hx⟩ := h
  · exact ⟨s.reply, by simp [step, hs, runEvent, State.advance, State.engineReset]⟩
  · exact ⟨some ⟨0, false⟩, (step_of_access hs).trans (busAccess_softReset hx)⟩

theorem State.not_resets_of_engineMoves (h : s.EngineMoves) : ¬ s.Resets := by
  rintro (⟨_, hr⟩ | ⟨_, _, hr, -⟩) <;> obtain hs | ⟨_, hs⟩ := h <;> simp [hs] at hr

theorem State.not_engineMoves_of_access {x : Access} {rest : List Event}
    (h : s.script = .access x :: rest) : ¬ s.EngineMoves := by
  simp [State.EngineMoves, h]

theorem State.resets_iff_of_access {x : Access} {rest : List Event}
    (h : s.script = .access x :: rest) : s.Resets ↔ s.SoftReset x := by
  simp [State.Resets, h]

/-- What a step can do: the engine's own step, a reset, or an access that is no soft reset. -/
theorem step_cases (h : step s = .next t) :
    (s.EngineMoves ∧ engineStep s.advance = .next t) ∨
    (s.Resets ∧ ∃ r, t = State.engineReset { s.advance with reply := r }) ∨
    ∃ x rest, s.script = .access x :: rest ∧ ¬ s.SoftReset x ∧ busAccess x s.advance = .next t := by
  by_cases hr : s.Resets
  · obtain ⟨r, hstep⟩ := step_of_resets hr
    exact .inr (.inl ⟨hr, r, by simpa [hstep] using h.symm⟩)
  · by_cases hm : s.EngineMoves
    · exact .inl ⟨hm, step_of_engineMoves hm ▸ h⟩
    · cases hs : s.script with
      | nil => exact absurd (.inl hs) hm
      | cons ev rest =>
        cases ev with
        | engine => exact absurd (.inr ⟨rest, hs⟩) hm
        | reset => exact absurd (.inl ⟨rest, hs⟩) hr
        | access x =>
          exact .inr (.inr ⟨x, rest, rfl, mt (State.resets_iff_of_access hs).mpr hr,
            step_of_access hs ▸ h⟩)

/-! ## What an access leaves unchanged -/

/-- What no host access but a soft reset changes. -/
structure State.AccessFrame (s t : State) : Prop where
  params : t.params = s.params
  m      : t.m = s.m
  errcmd : t.errcmd = s.errcmd
  cmdcnt : t.cmdcnt = s.cmdcnt
  script : t.script = s.script

theorem State.accessFrame_writeReg {r : BusReg} {v : BusWord}
    (h : ¬ (r = .ctrl ∧ v.getLsbD 1 = true)) : s.AccessFrame (s.writeReg r v) := by
  cases r with
  | ctrl =>
    have hv : v.getLsbD 1 = false := by simpa using h
    simp only [State.writeReg, State.writeCtrl, hv]
    exact ⟨rfl, rfl, rfl, rfl, rfl⟩
  | status =>
    simp only [State.writeReg, State.writeStatus]
    split <;> exact ⟨rfl, rfl, rfl, rfl, rfl⟩
  | cmd =>
    simp only [State.writeReg, State.submit]
    split <;> exact ⟨rfl, rfl, rfl, rfl, rfl⟩
  | w i =>
    simp only [State.writeReg, State.writeW]
    split <;> exact ⟨rfl, rfl, rfl, rfl, rfl⟩
  | nann i =>
    simp only [State.writeReg, State.writeAnn]
    repeat' split
    all_goals exact ⟨rfl, rfl, rfl, rfl, rfl⟩
  | nlimb i j =>
    simp only [State.writeReg, State.writeLimb]
    repeat' split
    all_goals exact ⟨rfl, rfl, rfl, rfl, rfl⟩
  | id | config | errcmd | cmdcnt | mstat | minv | mlimb | reserved =>
    exact ⟨rfl, rfl, rfl, rfl, rfl⟩

theorem State.accessFrame_busRead (r : BusReg) : s.AccessFrame (busRead s r) := by
  unfold busRead
  split <;> exact ⟨rfl, rfl, rfl, rfl, rfl⟩

theorem State.accessFrame_busWrite {r : BusReg} {v : BusWord}
    (h : ¬ (r = .ctrl ∧ v.getLsbD 1 = true)) : s.AccessFrame (busWrite s r v) :=
  let ⟨hp, hm, he, hc, hs⟩ := State.accessFrame_writeReg h
  ⟨hp, hm, he, hc, hs⟩

theorem State.accessFrame_busAccess {x : Access} (hx : ¬ s.SoftReset x)
    (h : busAccess x s = .next t) : s.AccessFrame t := by
  obtain rfl | ⟨r, rfl⟩ | ⟨hbase, hsize, hwrite, rfl⟩ := busAccess_cases h
  · exact ⟨rfl, rfl, rfl, rfl, rfl⟩
  · exact State.accessFrame_busRead r
  · refine State.accessFrame_busWrite ?_
    rintro ⟨hloc, hdata⟩
    rw [locate_eq_ctrl_iff] at hloc
    exact hx ⟨by omega, hsize, hwrite, hdata⟩

end Sys2Proof.Machine
end
section
/-!
PROOFS. How a command ends, said once per operand form: with an error of the table, or with the
completion of a state that has its writes (60_exceptions.md R400, R403, R404). With it, what a completion
leaves unchanged: 10_state.md R43 and R53.
-/

namespace Sys2Proof.Machine

/-- The command ends with an error in `s`, or completes a state that satisfies `P`. -/
inductive Ends (s : State) (P : State → Prop) : Host.Outcome State Fault Refusal → Prop where
  | error {e : ErrCode} (he : e ≠ .none) : Ends s P (abort s e)
  | done {u : State} (hu : P u) : Ends s P (finish u)

section
variable {s t : State} {P : State → Prop}

namespace Ends

/-- A next state is the state after the error, or a completed state of `P`. -/
theorem next_cases {o : Host.Outcome State Fault Refusal} (h : Ends s P o) (ho : o = .next t) :
    (∃ e, e ≠ .none ∧ t = s.fail e) ∨ ∃ u, P u ∧ t = u.complete := by
  cases h with
  | @error e he => exact .inl ⟨e, he, by simpa [abort] using ho.symm⟩
  | @done u hu => exact .inr ⟨u, hu, by simpa [finish] using ho.symm⟩

/-! ## The operand forms -/

theorem ofVectorCommand {d : NReg} {e : WReg} {k : Nat} {r : Nat × Nat}
    (h : k ≤ s.L → P (s.putVec d e k r)) : Ends s P (vectorCommand s d e k r) := by
  rw [vectorCommand_eq]
  split
  · exact error nofun
  · exact done (h (by omega))

theorem ofVectorShift {d : NReg} {e : WReg} {k amount : Nat} {r : Nat × Nat}
    (h : k ≤ s.L → P (s.putVec d e k r)) : Ends s P (vectorShift s d e k amount r) := by
  rw [vectorShift_eq]
  split
  · exact error nofun
  · split
    · exact error nofun
    · exact done (h (by omega))

theorem ofCappedCommand {d : NReg} {cap : Nat} {r : Nat → Nat}
    (h : cap ≤ s.capacity → P (s.setN d cap (r cap) none)) : Ends s P (cappedCommand s d cap r) := by
  unfold cappedCommand
  split
  · exact error nofun
  · exact done (h (by omega))

theorem ofWithModulus {mk : MReg} {f : ModReg → Host.Outcome State Fault Refusal}
    (h : (s.mreg mk).valid = true → Ends s P (f (s.mreg mk))) : Ends s P (withModulus s mk f) := by
  unfold withModulus
  split
  · next hv => exact h hv
  · exact error nofun

theorem ofWithOddModulus {mk : MReg} {f : ModReg → Host.Outcome State Fault Refusal}
    (h : (s.mreg mk).valid = true → Ends s P (f (s.mreg mk))) : Ends s P (withOddModulus s mk f) := by
  refine ofWithModulus fun hv => ?_
  split
  · exact error nofun
  · exact h hv

/-! ## Commands with branches of their own -/

theorem ofNgetw {d : WReg} {a : NReg} {j : Nat} (h : P (s.setW d (s.limb a j))) :
    Ends s P (execNgetw d a j s) := by
  unfold execNgetw
  split
  · exact error nofun
  · exact done h

theorem ofNputw {d : NReg} {a : WReg} {j : Nat}
    (h : ∀ v, P (s.setN d (s.nreg d).ann v none)) : Ends s P (execNputw d a j s) := by
  unfold execNputw
  split
  · exact error nofun
  · exact done (h _)

theorem ofDiv1 {d e a b c : WReg} (hq : ∀ q r, P ((s.setW d q).setW e r))
    (hd : ∀ q r, P ((s.setW d q).setW e r).drawn.drawn) : Ends s P (execDiv1 d e a b c s) := by
  unfold execDiv1
  split
  · exact done (hq _ _)
  · exact done (hd _ _)

theorem ofNresize {d a : NReg} {cap : Int}
    (h : ∀ c v, c ≤ s.capacity → P (s.setN d c v none)) : Ends s P (execNresize d a cap s) := by
  unfold execNresize
  split
  · exact error nofun
  · exact ofCappedCommand (h _ _)

/-- MODSET ends with EMPTY_MODULUS or writes the modulus made of the value, with a draw for an even
one (42_modulus_reduction.md R240). -/
theorem ofModset {a : NReg} {mk : MReg}
    (heven : (s.nreg a).val ≠ 0 → (s.nreg a).val % 2 = 0 →
      P (s.setM mk (modulusOf s.W (s.nreg a).val (s.draw (2 ^ s.W)))).drawn)
    (hodd : (s.nreg a).val % 2 = 1 →
      P (s.setM mk (modulusOf s.W (s.nreg a).val (m0invOf s.W (s.nreg a).val)))) :
    Ends s P (execModset a mk s) := by
  unfold execModset
  dsimp only
  split
  · exact error nofun
  · next h0 =>
    split
    · next he => exact done (heven h0 he)
    · exact done (hodd (by omega))

theorem ofModinv {d a : NReg} {mk : MReg}
    (hinv : (s.mreg mk).valid = true →
      P (s.setResidue d mk (s.mreg mk) (inv (s.red a (s.mreg mk)) (s.mreg mk).val)))
    (hdraw : (s.mreg mk).valid = true → P (s.drawResidue d mk (s.mreg mk))) :
    Ends s P (execModinv d a mk s) := by
  refine ofWithModulus fun hv => ?_
  split
  · exact done (hinv hv)
  · exact done (hdraw hv)

/-- MODSQRT writes 0, a power, the Tonelli-Shanks output or a draw (47_modsqrt.md R360). -/
theorem ofModsqrt {d a : NReg} {mk : MReg}
    (hres : (s.mreg mk).valid = true → ∀ r,
      ((s.mreg mk).val = 1 ∧ r = 0 ∨ (∃ e, r = powMod (s.red a (s.mreg mk)) e (s.mreg mk).val) ∨
        r = tonelliShanks (s.red a (s.mreg mk)) (s.mreg mk).val) →
      P (s.setResidue d mk (s.mreg mk) r))
    (hdraw : (s.mreg mk).valid = true → P (s.drawResidue d mk (s.mreg mk))) :
    Ends s P (execModsqrt d a mk s) := by
  refine ofWithOddModulus fun hv => ?_
  dsimp only
  split
  · next h1 => exact done (hres hv _ (.inl ⟨h1, rfl⟩))
  · split
    · exact done (hres hv _ (.inr (.inl ⟨_, rfl⟩)))
    · split
      · exact done (hres hv _ (.inr (.inr rfl)))
      · exact done (hdraw hv)

end Ends

/-! ## What a command leaves unchanged -/

/-- `u` is `s` after writes of the command `i` to the register files and draws; only MODSET of `k`
writes `m[k]` (10_state.md R43). -/
structure State.WrittenBy (s : State) (i : Instr) (u : State) : Prop where
  frame : u = { s with n := u.n, w := u.w, m := u.m, draws := u.draws }
  mreg  : ∀ k, u.mreg k = s.mreg k ∨ ∃ a, i = .modset a k

/-- Writes that leave the modulus registers alone are allowed to every command. -/
theorem State.writtenBy_of_frame {i : Instr} {u : State}
    (h : u = { s with n := u.n, w := u.w, draws := u.draws }) : s.WrittenBy i u := by
  rw [h]
  exact ⟨rfl, fun _ => .inl rfl⟩

theorem State.writtenBy_setM {a : NReg} {k : MReg} {r : ModReg} :
    s.WrittenBy (.modset a k) (s.setM k r) := by
  refine ⟨rfl, fun j => ?_⟩
  by_cases hj : j = k
  · exact .inr ⟨a, by rw [hj]⟩
  · exact .inl (s.mreg_setM_ne hj r)

theorem State.WrittenBy.drawn {i : Instr} {u : State} (h : s.WrittenBy i u) :
    s.WrittenBy i u.drawn := ⟨congrArg State.drawn h.frame, h.mreg⟩

/-- Every command ends with an error or with the completion of its own writes. -/
theorem exec_ends (i : Instr) (s : State) : Ends s (s.WrittenBy i) (exec i s) := by
  have files {u : State} (h : u = { s with n := u.n, w := u.w, draws := u.draws }) :
      s.WrittenBy i u := State.writtenBy_of_frame h
  unfold exec
  cases i with
  | nop | wmovi | nsetw | ncopy | cteq | ctgt | ctifelse | ctcondcopy | ctcondswap | ncmp | neq
  | neqzero | coprime => exact .done (files rfl)
  | ngetw => exact .ofNgetw (files rfl)
  | nputw => exact .ofNputw fun _ => files rfl
  | div1 => exact .ofDiv1 (fun _ _ => files rfl) fun _ _ => files rfl
  | addvv | subvv | addmulvvw | mulsubvvw | addvw | subvw =>
    exact .ofVectorCommand fun _ => files rfl
  | shlvu | shrvu => exact .ofVectorShift fun _ => files rfl
  | nresize => exact .ofNresize fun _ _ _ => files rfl
  | nadd | nsub | nmul | nlsh | nrsh => exact .ofCappedCommand fun _ => files rfl
  | modset => exact .ofModset (fun _ _ => State.writtenBy_setM.drawn) fun _ => State.writtenBy_setM
  | div => exact .ofWithModulus fun _ => .ofCappedCommand fun _ => files rfl
  | shiftaddin | mod | modadd | modsub | modneg | modmul | montrep | exp =>
    exact .ofWithModulus fun _ => .done (files rfl)
  | montmul => exact .ofWithOddModulus fun _ => .done (files rfl)
  | modinv => exact .ofModinv (fun _ => files rfl) fun _ => files rfl
  | modsqrt => exact .ofModsqrt (fun _ _ _ => files rfl) fun _ => files rfl

/-- A completion step is the error of the word, or it runs the command that CMD holds. -/
theorem completion_cases (h : completion s = .next t) :
    (∃ e, e ≠ .none ∧ t = s.fail e) ∨
      ∃ i u, decode s.cmd = .command i ∧ s.WrittenBy i u ∧ t = u.complete := by
  unfold completion at h
  cases hd : decode s.cmd with
  | command i =>
    rw [hd] at h
    obtain herr | ⟨u, hu, ht⟩ := (exec_ends i s).next_cases h
    · exact .inl herr
    · exact .inr ⟨i, u, rfl, hu, ht⟩
  | illegal e =>
    rw [hd] at h
    exact .inl ⟨decodeErrCode e, by cases e <;> nofun, by simpa [abort] using h.symm⟩

theorem cmdcnt_completion (h : completion s = .next t) : t.cmdcnt = s.cmdcnt + 1 := by
  obtain ⟨e, -, rfl⟩ | ⟨i, u, -, hu, rfl⟩ := completion_cases h
  · rfl
  · exact congrArg (·.cmdcnt + 1) hu.frame

theorem mreg_completion (h : completion s = .next t) {k : MReg} (hk : t.mreg k ≠ s.mreg k) :
    ∃ a, decode s.cmd = .command (.modset a k) := by
  obtain ⟨e, -, rfl⟩ | ⟨i, u, hd, hu, rfl⟩ := completion_cases h
  · exact absurd rfl hk
  · obtain hsame | ⟨a, rfl⟩ := hu.mreg k
    · exact absurd hsame hk
    · exact ⟨a, hd⟩

/-! ## The engine's step -/

theorem engineStep_busy (h : s.busy = true) : engineStep s = completion s := by simp [engineStep, h]

theorem engineStep_idle (h : s.busy = false) : engineStep s = .next s := by simp [engineStep, h]

end

/-- Settles O15: by the cases of a step; a completion writes `m[k]` only through MODSET of it, and an
access that is no soft reset leaves the modulus file. -/
theorem moduliChangeOnlyByModsetOrReset : Obligations.ModuliChangeOnlyByModsetOrReset := by
  intro s t k h hk
  obtain ⟨hm, he⟩ | ⟨hr, -⟩ | ⟨x, rest, -, hx, ha⟩ := step_cases h
  · cases hb : s.busy with
    | true =>
      rw [engineStep_busy (s := s.advance) hb] at he
      exact .inr ⟨hm, rfl, mreg_completion he hk⟩
    | false =>
      obtain rfl : s.advance = t := by simpa [engineStep_idle (s := s.advance) hb] using he
      exact absurd rfl hk
  · exact .inl hr
  · have hfile : t.m = s.m := (State.accessFrame_busAccess (s := s.advance) hx ha).m
    exact absurd (by simp [State.mreg, hfile]) hk

/-- Settles O16: by the cases of a step, which exclude one another. -/
theorem cmdcntCountsCompletions : Obligations.CmdcntCountsCompletions := by
  intro s t h
  obtain ⟨hm, he⟩ | ⟨hr, r, rfl⟩ | ⟨x, rest, hs, hx, ha⟩ := step_cases h
  · refine ⟨fun hb => ?_, fun hr => absurd hr (State.not_resets_of_engineMoves hm), fun hb _ => ?_⟩
    · rw [engineStep_busy (s := s.advance) hb.2] at he
      exact cmdcnt_completion (s := s.advance) he
    · have hidle : s.busy = false := by simpa [hm] using hb
      obtain rfl : s.advance = t := by simpa [engineStep_idle (s := s.advance) hidle] using he
      rfl
  · exact ⟨fun hb => absurd hr (State.not_resets_of_engineMoves hb.1), fun _ => rfl,
      fun _ hn => absurd hr hn⟩
  · exact ⟨fun hb => absurd hb.1 (State.not_engineMoves_of_access hs),
      fun hr => absurd ((State.resets_iff_of_access hs).mp hr) hx,
      fun _ _ => (State.accessFrame_busAccess (s := s.advance) hx ha).cmdcnt⟩

end Sys2Proof.Machine
end
section
/-!
PROOFS. The invariant of 10_state.md R31 to R42 and R50 holds at reset and is kept by every step: the
values that commands write are in range, then every command, every host write and every event.
-/

namespace Sys2Proof.Machine

/-! ## Values in range -/

/-- `v * m0inv = -1 mod 2^W` for an odd `v` (10_state.md R41). -/
theorem mul_m0invOf {W v : Nat} (hv : v % 2 = 1) : (v * m0invOf W v + 1) % 2 ^ W = 0 := by
  have hB : 0 < 2 ^ W := Nat.two_pow_pos W
  have hgcd : Nat.gcd (v % 2 ^ W) (2 ^ W) = 1 := by
    rw [← Nat.gcd_rec]
    exact Nat.Coprime.pow_left W (Nat.coprime_two_left.mpr (Nat.odd_iff.mpr hv))
  set r := inv (v % 2 ^ W) (2 ^ W)
  have hinv : v * r ≡ 1 [MOD 2 ^ W] :=
    ((Nat.mod_modEq v _).symm.mul_right r).trans (mul_inv_mod hB hgcd)
  have hneg : m0invOf W v + r ≡ 0 [MOD 2 ^ W] := by
    have hle : r ≤ 2 ^ W := (inv_lt _ hB).le
    calc m0invOf W v + r ≡ 2 ^ W - r + r [MOD 2 ^ W] := (Nat.mod_modEq _ _).add_right r
      _ = 2 ^ W := Nat.sub_add_cancel hle
      _ ≡ 0 [MOD 2 ^ W] := by simp [Nat.ModEq]
  calc v * m0invOf W v + 1 ≡ v * m0invOf W v + v * r [MOD 2 ^ W] := hinv.symm.add_left _
    _ = v * (m0invOf W v + r) := (Nat.mul_add _ _ _).symm
    _ ≡ v * 0 [MOD 2 ^ W] := hneg.mul_left v

theorem powMod_lt (b e : Nat) {m : Nat} (hm : 0 < m) : powMod b e m < m := by
  rw [powMod_eq]
  exact Nat.mod_lt _ hm

theorem tsRounds_lt {p : Nat} (hp : 0 < p) :
    ∀ j r t c, r < p → tsRounds p j r t c < p := by
  intro j
  induction j with
  | zero => exact fun _ _ _ hr => hr
  | succ j ih =>
    intro r t c hr
    rw [tsRounds]
    split
    · exact ih _ _ _ hr
    · exact ih _ _ _ (Nat.mod_lt _ hp)

theorem tonelliShanks_lt (x : Nat) {p : Nat} (hp : 0 < p) : tonelliShanks x p < p :=
  tsRounds_lt hp _ _ _ _ (powMod_lt _ _ hp)

theorem toNat_emod_lt (a : Int) {m : Nat} (hm : 0 < m) : (a % (m : Int)).toNat < m := by
  have hm' : (0 : Int) < m := by exact_mod_cast hm
  have hlt := Int.emod_lt_of_pos a hm'
  omega

section
variable {s t : State}

theorem State.draw_lt {n : Nat} (hn : 0 < n) : s.draw n < n := Nat.mod_lt _ hn

/-- The modulus made from a value that fits the register is consistent, given its `m0inv`
(42_modulus_reduction.md R240). -/
theorem modulusOf_consistent {W L v m0inv : Nat} (hW : 0 < W) (h0 : v ≠ 0)
    (hfit : bitlen v ≤ L * W) (hm : m0inv < 2 ^ W) (hodd : v % 2 = 1 → (v * m0inv + 1) % 2 ^ W = 0) :
    (modulusOf W v m0inv).Consistent W L := by
  refine ⟨nofun, fun _ => ⟨Nat.pos_of_ne_zero h0, rfl, nlimbs_le_of_le_mul hW hfit, rfl,
    decide_eq_true_iff, hm, fun he => hodd ?_⟩⟩
  have := decide_eq_false_iff_not.mp he
  omega

/-! ## Commands -/

namespace State.Inv
variable (h : s.Inv)
include h

theorem natsFit : s.NatsFit := h.2.1

theorem putVec (d : NReg) (e : WReg) {k : Nat} (r : Nat × Nat) (hk : k ≤ s.L) :
    (s.putVec d e k r).Inv :=
  (h.setN_none d r.1 (Nat.mul_le_mul_right _ hk)).setW e r.2

/-- A copy of a Nat register, its tag included (41_nat_arithmetic.md R205). -/
theorem ncopy (d a : NReg) : (s.setN d (s.nreg a).ann (s.nreg a).val (s.nreg a).tag).Inv := by
  refine setN h d (h.natsFit a).1 fun k hk => ?_
  obtain ⟨-, -, htags, -⟩ := h
  obtain ⟨hv, hlt⟩ := htags a k hk
  exact ⟨hv, (Nat.mod_le _ _).trans_lt hlt⟩

theorem setN_max (d a b : NReg) (v : Nat) :
    (s.setN d (max (s.nreg a).ann (s.nreg b).ann) v none).Inv :=
  h.setN_none d v (max_le (h.natsFit a).1 (h.natsFit b).1)

theorem drawResidue (d : NReg) {mk : MReg} (hv : (s.mreg mk).valid = true) :
    (s.drawResidue d mk (s.mreg mk)).Inv :=
  h.setResidue d hv (draw_lt (h.val_pos hv))

theorem bitlen_val_le (a : NReg) : bitlen (s.nreg a).val ≤ s.L * s.W :=
  ((bitlen_le_iff _ _).mpr (h.natsFit a).2).trans (h.natsFit a).1

theorem ends_ctcondswap (d e : NReg) (c : WReg) : Ends s State.Inv (execCtcondswap d e c s) :=
  .done ((h.setN_max d d e _).setN_none e _ (max_le (h.natsFit d).1 (h.natsFit e).1))

theorem ends_modset (a : NReg) (mk : MReg) : Ends s State.Inv (execModset a mk s) := by
  have hB : 0 < 2 ^ s.W := Nat.two_pow_pos _
  refine .ofModset (fun h0 he => ?_) fun ho => ?_
  · exact h.setM mk (modulusOf_consistent s.W_pos h0 (h.bitlen_val_le a) (draw_lt hB) (by omega))
  · exact h.setM mk (modulusOf_consistent s.W_pos (by omega) (h.bitlen_val_le a)
      (Nat.mod_lt _ hB) fun _ => mul_m0invOf ho)

/-- A modular command whose result is below the modulus. -/
theorem ends_residue (d : NReg) (mk : MReg) {r : ModReg → Nat}
    (hr : ∀ md : ModReg, 0 < md.val → r md < md.val) :
    Ends s State.Inv (withModulus s mk fun md => finish (s.setResidue d mk md (r md))) :=
  .ofWithModulus fun hv => .done (h.setResidue d hv (hr _ (h.val_pos hv)))

theorem ends_modsqrt (d a : NReg) (mk : MReg) : Ends s State.Inv (execModsqrt d a mk s) := by
  refine .ofModsqrt (fun hv r hr => h.setResidue d hv ?_) fun hv => h.drawResidue d hv
  have hpos := h.val_pos hv
  obtain ⟨h1, rfl⟩ | ⟨e, rfl⟩ | rfl := hr
  · exact hpos
  · exact powMod_lt _ _ hpos
  · exact tonelliShanks_lt _ hpos

/-- Every command keeps the invariant, before its completion. -/
theorem ends_exec (i : Instr) : Ends s State.Inv (exec i s) := by
  unfold exec
  cases i with
  | nop => exact .done h
  | wmovi d | cteq d | ctgt d | ctifelse d | neq d | neqzero d | coprime d => exact .done (h.setW d _)
  | ncmp d e _ _ c => exact .done (((h.setW d _).setW e _).setW c _)
  | ngetw d => exact .ofNgetw (h.setW d _)
  | div1 d e => exact .ofDiv1 (fun _ _ => (h.setW d _).setW e _) fun _ _ => (h.setW d _).setW e _
  | nsetw d a => exact .done (h.setN_none d _ (Nat.le_mul_of_pos_left _ s.L_pos))
  | nputw d => exact .ofNputw fun v => h.setN_none d v (h.natsFit d).1
  | ncopy d a => exact .done (h.ncopy d a)
  | ctcondcopy d a => exact .done (h.setN_max d d a _)
  | ctcondswap d e c => exact h.ends_ctcondswap d e c
  | addvv d e | subvv d e | addmulvvw d e | mulsubvvw d e | addvw d e | subvw d e =>
    exact .ofVectorCommand (h.putVec d e _)
  | shlvu d e | shrvu d e => exact .ofVectorShift (h.putVec d e _)
  | nresize d => exact .ofNresize fun _ v hc => h.setN_none d v hc
  | nadd d | nsub d | nmul d | nlsh d | nrsh d => exact .ofCappedCommand (h.setN_none d _)
  | div d => exact .ofWithModulus fun _ => .ofCappedCommand (h.setN_none d _)
  | modset a mk => exact h.ends_modset a mk
  | shiftaddin d e _ mk =>
    exact .ofWithModulus fun hv =>
      .done ((h.setResidue d hv (Nat.mod_lt _ (h.val_pos hv))).setW e _)
  | mod d _ mk | modadd d _ _ mk | modmul d _ _ mk | montrep d _ mk =>
    exact h.ends_residue d mk fun _ => Nat.mod_lt _
  | modsub d _ _ mk | modneg d _ mk => exact h.ends_residue d mk fun _ => toNat_emod_lt _
  | exp d _ _ mk => exact h.ends_residue d mk fun _ => powMod_lt _ _
  | montmul d _ _ mk =>
    exact .ofWithOddModulus fun hv => .done (h.setResidue d hv (Nat.mod_lt _ (h.val_pos hv)))
  | modinv d _ mk =>
    exact .ofModinv (fun hv => h.setResidue d hv (inv_lt _ (h.val_pos hv))) fun hv =>
      h.drawResidue d hv
  | modsqrt d a mk => exact h.ends_modsqrt d a mk

theorem completion (ht : completion s = .next t) : t.Inv := by
  unfold Machine.completion at ht
  cases hd : decode s.cmd with
  | command i =>
    rw [hd] at ht
    obtain ⟨e, he, rfl⟩ | ⟨u, hu, rfl⟩ := (h.ends_exec i).next_cases ht
    · exact h.fail he
    · exact hu.complete
  | illegal e =>
    rw [hd] at ht
    obtain rfl : s.fail (decodeErrCode e) = t := by simpa [abort] using ht
    exact h.fail (by cases e <;> nofun)

theorem engineStep (ht : engineStep s = .next t) : t.Inv := by
  cases hb : s.busy with
  | true => exact h.completion (engineStep_busy hb ▸ ht)
  | false =>
    obtain rfl : s = t := by simpa [engineStep_idle hb] using ht
    exact h

/-! ## The host side -/

theorem submit (v : BusWord) : (s.submit v).Inv := by
  obtain ⟨hw, hn, ht, hm, herr, hbusy⟩ := h
  unfold State.submit
  split
  · exact ⟨hw, hn, ht, hm, herr, hbusy⟩
  · next hacc =>
    obtain ⟨-, hno⟩ : s.busy = false ∧ s.err = false := by simpa using hacc
    exact ⟨hw, hn, ht, hm, herr, fun _ => ⟨rfl, hno⟩⟩

/-- Clearing status bits is safe: ERR goes with its code, and DONE only falls. -/
theorem clearStatus (b : Bool) (o a : Bool) :
    State.Inv { s with done := s.done && b, cmdovr := o, accerr := a } := by
  obtain ⟨hw, hn, ht, hm, herr, hbusy⟩ := h
  exact ⟨hw, hn, ht, hm, herr, fun hb => ⟨by simp [(hbusy hb).1], (hbusy hb).2⟩⟩

theorem writeStatus (v : BusWord) : (s.writeStatus v).Inv := by
  unfold State.writeStatus
  dsimp only
  split
  · exact h.ackErr.clearStatus _ _ _
  · exact h.clearStatus _ _ _

theorem writeCtrl (v : BusWord) : (s.writeCtrl v).Inv := by
  unfold State.writeCtrl
  dsimp only
  split
  · exact inv_engineReset _
  · exact h

theorem writeAnn (i : NReg) (v : BusWord) : (s.writeAnn i v).Inv := by
  unfold State.writeAnn
  split
  · exact h
  · split
    · exact h
    · exact h.setN_none i _ (by omega)

theorem writeLimb (i : NReg) (j : Nat) (v : BusWord) : (s.writeLimb i j v).Inv := by
  unfold State.writeLimb
  split
  · exact h
  · split
    · exact h
    · exact h.setN_none i _ (h.natsFit i).1

theorem writeW (i : WReg) (v : BusWord) : (s.writeW i v).Inv := by
  unfold State.writeW
  split
  · exact h
  · exact h.setW i _

theorem writeReg (r : BusReg) (v : BusWord) : (s.writeReg r v).Inv := by
  cases r with
  | ctrl => exact h.writeCtrl v
  | status => exact h.writeStatus v
  | cmd => exact h.submit v
  | w i => exact h.writeW i v
  | nann i => exact h.writeAnn i v
  | nlimb i j => exact h.writeLimb i j v
  | id | config | errcmd | cmdcnt | mstat | minv | mlimb | reserved => exact h

theorem busRead (r : BusReg) : (busRead s r).Inv := by
  unfold Machine.busRead
  split
  · exact h
  · exact h

theorem busAccess {x : Access} (ht : busAccess x s = .next t) : t.Inv := by
  obtain rfl | ⟨r, rfl⟩ | ⟨-, -, -, rfl⟩ := busAccess_cases ht
  · exact h.refuseAccess x
  · exact h.busRead r
  · exact (h.writeReg _ _).answer 0

end State.Inv

end

/-! ## The obligations -/

/-- Settles O14: by the cases of a step, each of which keeps the invariant. -/
theorem stepKeepsTheInvariant : Obligations.StepKeepsTheInvariant := by
  intro s t h ht
  have hadv : s.advance.Inv := h.withScript _
  obtain ⟨-, he⟩ | ⟨-, r, rfl⟩ | ⟨x, -, -, -, ha⟩ := step_cases ht
  · exact hadv.engineStep he
  · exact State.inv_engineReset _
  · exact hadv.busAccess ha

/-- Settles O13: the state after reset is the reset of itself. -/
theorem invariantHoldsAtReset : Obligations.InvariantHoldsAtReset := by
  have h (p : Params) : (State.resetOf p).Inv :=
    State.engineReset_resetOf p ▸ (State.resetOf p).inv_engineReset
  exact ⟨h _, h⟩

end Sys2Proof.Machine
end
section
/-!
PROOFS. The reset values of 10_state.md R60 and the control and status registers of 10_state.md R45 to
R53: the words they hold, field by field, and a host's read and write of them (20_memory.md R87, R89).
-/

namespace Sys2Proof.Machine

variable {s : State}

/-! ## The words as numbers -/

theorem Width.bits_le (w : Width) : w.bits ≤ 64 := by cases w <;> decide

theorem State.W_le : s.W ≤ 64 := Width.bits_le _

theorem ErrCode.code_lt (e : ErrCode) : e.code < 8 := by cases e <;> decide

theorem State.configWord_toNat :
    s.configWord.toNat = 4 * 2 ^ 48 + 16 * 2 ^ 40 + 16 * 2 ^ 32 + s.L * 2 ^ 16 + s.W := by
  have hL := s.L_le
  have hW := s.W_le
  rw [State.configWord, BitVec.toNat_ofNat, Nat.mod_eq_of_lt]
  omega

/-! ## The words field by field -/

/-- A bit whose number is the Choice of `b` is `b`. -/
theorem getLsbD_of_choice {v : BusWord} {i : Nat} {b : Bool} (h : v.toNat / 2 ^ i % 2 = choice b) :
    v.getLsbD i = b := by
  rw [BitVec.getLsbD, Nat.testBit_eq_decide_div_mod_eq, h]
  cases b <;> rfl

theorem idWord_fields :
    bitsOf idWord 0 16 = 0x5AFE ∧ bitsOf idWord 16 8 = 0x01 ∧ bitsOf idWord 24 40 = 0 := by decide

theorem State.configWord_fields :
    bitsOf s.configWord 0 8 = s.W ∧ bitsOf s.configWord 8 8 = 0 ∧ bitsOf s.configWord 16 16 = s.L ∧
      bitsOf s.configWord 32 8 = 16 ∧ bitsOf s.configWord 40 8 = 16 ∧
      bitsOf s.configWord 48 8 = 4 ∧ bitsOf s.configWord 56 8 = 0 := by
  have hL := s.L_le
  have hW := s.W_le
  simp only [bitsOf, State.configWord_toNat]
  omega

theorem State.ctrlWord_fields : s.ctrlWord.getLsbD 0 = s.ie ∧ bitsOf s.ctrlWord 1 63 = 0 := by
  unfold State.ctrlWord
  cases s.ie <;> decide

theorem State.statusWord_fields :
    s.statusWord.getLsbD 0 = s.busy ∧ s.statusWord.getLsbD 1 = s.done ∧
      s.statusWord.getLsbD 2 = s.err ∧ s.statusWord.getLsbD 3 = s.cmdovr ∧
      s.statusWord.getLsbD 4 = s.accerr ∧ bitsOf s.statusWord 5 3 = 0 ∧
      bitsOf s.statusWord 8 8 = s.errcode.code ∧ bitsOf s.statusWord 16 48 = 0 := by
  have hcode := s.errcode.code_lt
  have haccerr := choice_le_one s.accerr
  have hcmdovr := choice_le_one s.cmdovr
  have herr := choice_le_one s.err
  have hdone := choice_le_one s.done
  have hbusy := choice_le_one s.busy
  have hword : s.statusWord.toNat = s.errcode.code * 2 ^ 8 + choice s.accerr * 2 ^ 4 +
      choice s.cmdovr * 2 ^ 3 + choice s.err * 2 ^ 2 + choice s.done * 2 + choice s.busy :=
    Nat.mod_eq_of_lt (by omega)
  simp only [bitsOf, hword]
  refine ⟨getLsbD_of_choice ?_, getLsbD_of_choice ?_, getLsbD_of_choice ?_, getLsbD_of_choice ?_,
    getLsbD_of_choice ?_, ?_, ?_, ?_⟩
  all_goals omega

/-! ## Reads and writes of one register -/

theorem State.readReg_withScript (es : List Event) (r : BusReg) :
    State.readReg { s with script := es } r = s.readReg r := by cases r <;> rfl

/-- A register outside the files is read at any time (20_memory.md R89). -/
theorem State.reads_of_locate {off : Nat} {r : BusReg} (hw : off < windowSize) (ha : off % 8 = 0)
    (hl : locate s.L off = r) (hr : r.isFile = false) : s.Reads off (s.readReg r) := by
  intro rest
  have hread : busRead { s with script := rest } r =
      { s with script := rest, reply := some ⟨s.readReg r, false⟩ } := by
    simp only [busRead, hr, Bool.false_and, Bool.false_eq_true, if_false, State.readReg_withScript]
    rfl
  rw [← hread, ← hl]
  exact step_of_readAt rfl hw ha

/-- A register whose writes do nothing ignores them (20_memory.md R87). -/
theorem State.ignores_of_locate {off : Nat} {r : BusReg} (hw : off < windowSize) (ha : off % 8 = 0)
    (hl : locate s.L off = r) (hr : ∀ (u : State) (v : BusWord), u.writeReg r v = u) :
    s.Ignores off := by
  intro v rest
  have hwrite : busWrite { s with script := rest } r v =
      { s with script := rest, reply := some ⟨0, false⟩ } := by rw [busWrite, hr]; rfl
  rw [← hwrite, ← hl]
  exact step_of_writeAt rfl hw ha

/-! ## Reset values -/

theorem limbOf_zero (W j : Nat) : limbOf W 0 j = 0 := by simp [limbOf]

theorem State.hasResetValues_engineReset (s : State) : s.engineReset.HasResetValues := by
  have hstatus : s.engineReset.statusWord = 0 := by simp [State.statusWord, choice, ErrCode.code]
  refine ⟨fun i => ?_, s.wreg_engineReset, fun k => ?_, rfl, hstatus, rfl, rfl, rfl, rfl, rfl,
    State.configWord_toNat⟩
  · simp [State.limb, NatReg.empty, limbOf_zero]
  · simp [ModReg.empty, limbOf_zero]

/-- Settles O1: the state after reset is the reset of itself, and every resetting step ends in a reset
that may be answered. -/
theorem resetGivesTheTableOfResetValues : Obligations.ResetGivesTheTableOfResetValues := by
  refine ⟨fun p => ⟨?_, rfl⟩, ⟨Params.default, rfl⟩, fun s hs => ?_⟩
  · exact State.engineReset_resetOf p ▸ (State.resetOf p).hasResetValues_engineReset
  · obtain ⟨r, hstep⟩ := step_of_resets hs
    exact ⟨_, hstep, State.hasResetValues_engineReset _, rfl, rfl⟩

/-- Settles O6: the address map finds each register, and its word is taken apart by division. -/
theorem controlRegistersReadAtAnyTime : Obligations.ControlRegistersReadAtAnyTime := by
  intro s
  have reads {off : Nat} {r : BusReg} (hw : off < windowSize) (ha : off % 8 = 0)
      (hl : locate s.L off = r) (hr : r.isFile = false) : s.Reads off (s.readReg r) :=
    State.reads_of_locate hw ha hl hr
  obtain ⟨hbusy, hdone, herr, hcmdovr, haccerr, hgap, hcode, htop⟩ := s.statusWord_fields
  refine ⟨⟨_, reads (r := .id) (by decide) rfl rfl rfl, idWord_fields⟩,
    ⟨_, reads (r := .config) (by decide) rfl rfl rfl, s.configWord_fields⟩,
    ⟨_, reads (r := .ctrl) (by decide) rfl rfl rfl, s.ctrlWord_fields⟩,
    ⟨_, reads (r := .status) (by decide) rfl rfl rfl, hbusy, hdone, herr, hcmdovr, haccerr, hgap,
      hcode.trans ?_, htop⟩,
    reads (r := .cmd) (by decide) rfl rfl rfl, reads (r := .errcmd) (by decide) rfl rfl rfl,
    reads (r := .cmdcnt) (by decide) rfl rfl rfl, ?_, ?_, ?_, ?_⟩
  · cases s.errcode <;> rfl
  · exact State.ignores_of_locate (r := .id) (by decide) rfl rfl fun _ _ => rfl
  · exact State.ignores_of_locate (r := .config) (by decide) rfl rfl fun _ _ => rfl
  · exact State.ignores_of_locate (r := .errcmd) (by decide) rfl rfl fun _ _ => rfl
  · exact State.ignores_of_locate (r := .cmdcnt) (by decide) rfl rfl fun _ _ => rfl

end Sys2Proof.Machine
end
section
/-!
PROOFS. 10_state.md R35: reduced tags change no result. `State.untag` clears every tag; every operation of
a command gives the same untagged state whether it starts from a state or from the untagged one.
-/

namespace Sys2Proof.Machine

/-! ## The abstraction of a state to all but its tags -/

/-- The state with every reduced tag cleared. -/
def State.untag (s : State) : State := { s with n := s.n.map fun x => { x with tag := none } }

/-- The state that an outcome leaves, its tags cleared; none when the model stops. -/
def untagAfter : Host.Outcome State Fault Refusal → Option State
  | .next s => some s.untag
  | .fault _ => none
  | .refused _ => none

section
variable (s t : State)

/-! ## Reads and writes of an untagged state -/

@[simp] theorem State.nreg_untag (i : NReg) : s.untag.nreg i = { s.nreg i with tag := none } := by
  simp [State.untag, State.nreg]

@[simp] theorem State.wreg_untag (i : WReg) : s.untag.wreg i = s.wreg i := rfl
@[simp] theorem State.mreg_untag (k : MReg) : s.untag.mreg k = s.mreg k := rfl
@[simp] theorem State.W_untag : s.untag.W = s.W := rfl
@[simp] theorem State.L_untag : s.untag.L = s.L := rfl
@[simp] theorem State.capacity_untag : s.untag.capacity = s.capacity := rfl
@[simp] theorem State.draw_untag (n : Nat) : s.untag.draw n = s.draw n := rfl
@[simp] theorem State.draw_drawn_untag (n : Nat) : s.untag.drawn.draw n = s.drawn.draw n := rfl
@[simp] theorem State.limb_untag (i : NReg) (j : Nat) : s.untag.limb i j = s.limb i j := by
  simp [State.limb]
@[simp] theorem State.vec_untag (i : NReg) (k : Nat) : s.untag.vec i k = s.vec i k := by
  simp [State.vec]
@[simp] theorem State.red_untag (i : NReg) (md : ModReg) : s.untag.red i md = s.red i md := by
  simp [State.red]

@[simp] theorem State.untag_untag : s.untag.untag = s.untag := by
  simp [State.untag]

@[simp] theorem State.untag_setW (i : WReg) (v : Nat) : (s.setW i v).untag = s.untag.setW i v := rfl
@[simp] theorem State.untag_drawn : s.drawn.untag = s.untag.drawn := rfl
@[simp] theorem State.untag_complete : s.complete.untag = s.untag.complete := rfl
@[simp] theorem State.untag_fail (e : ErrCode) : (s.fail e).untag = s.untag.fail e := rfl

@[simp] theorem State.untag_setN (i : NReg) (a v : Nat) (tg : Option MReg) :
    (s.setN i a v tg).untag = s.untag.setN i a v none := by
  simp [State.untag, State.setN, Vector.map_set]

@[simp] theorem State.untag_setM (k : MReg) (r : ModReg) :
    (s.setM k r).untag = s.untag.setM k r := by
  have hn : (s.setM k r).untag.n = (s.untag.setM k r).n := by
    refine Vector.ext fun i hi => ?_
    simp only [State.untag, State.setM, Vector.getElem_map]
    split <;> simp
  exact congrArg (fun n => { s.setM k r with n := n }) hn

@[simp] theorem State.untag_putVec (d : NReg) (e : WReg) (k : Nat) (r : Nat × Nat) :
    (s.putVec d e k r).untag = s.untag.putVec d e k r := by simp [State.putVec]

@[simp] theorem State.untag_setResidue (d : NReg) (mk : MReg) (md : ModReg) (r : Nat) :
    (s.setResidue d mk md r).untag = s.untag.setN d (bitlen md.val) r none := by
  simp [State.setResidue]

@[simp] theorem State.untag_drawResidue (d : NReg) (mk : MReg) (md : ModReg) :
    (s.drawResidue d mk md).untag =
      (s.untag.setN d (bitlen md.val) (s.draw md.val) none).drawn := by
  simp [State.drawResidue]

@[simp] theorem untagAfter_finish : untagAfter (finish s) = some s.untag.complete := rfl
@[simp] theorem untagAfter_abort (e : ErrCode) : untagAfter (abort s e) = some (s.untag.fail e) := rfl

/-! ## The forms of a command -/

theorem untagAfter_vectorCommand (d : NReg) (e : WReg) (k : Nat) (r : Nat × Nat) :
    untagAfter (vectorCommand s.untag d e k r) = untagAfter (vectorCommand s d e k r) := by
  rw [vectorCommand_eq, vectorCommand_eq, State.L_untag]
  split <;> simp

theorem untagAfter_vectorShift (d : NReg) (e : WReg) (k amount : Nat) (r : Nat × Nat) :
    untagAfter (vectorShift s.untag d e k amount r) = untagAfter (vectorShift s d e k amount r) := by
  rw [vectorShift_eq, vectorShift_eq, State.L_untag, State.W_untag]
  repeat' split
  all_goals simp

theorem untagAfter_cappedCommand (d : NReg) (cap : Nat) (r : Nat → Nat) :
    untagAfter (cappedCommand s.untag d cap r) = untagAfter (cappedCommand s d cap r) := by
  rw [cappedCommand_eq, cappedCommand_eq, State.L_untag, State.W_untag]
  split <;> simp

variable {s} in
theorem untagAfter_withModulus {mk : MReg} {f g : ModReg → Host.Outcome State Fault Refusal}
    (hfg : ∀ md, untagAfter (f md) = untagAfter (g md)) :
    untagAfter (withModulus s.untag mk f) = untagAfter (withModulus s mk g) := by
  unfold withModulus
  rw [State.mreg_untag]
  split
  · exact hfg _
  · simp

variable {s} in
theorem untagAfter_withOddModulus {mk : MReg} {f g : ModReg → Host.Outcome State Fault Refusal}
    (hfg : ∀ md, untagAfter (f md) = untagAfter (g md)) :
    untagAfter (withOddModulus s.untag mk f) = untagAfter (withOddModulus s mk g) := by
  refine untagAfter_withModulus fun md => ?_
  split
  · simp
  · exact hfg md

/-! ## Commands with branches of their own -/

theorem untagAfter_ngetw (d : WReg) (a : NReg) (j : Nat) :
    untagAfter (execNgetw d a j s.untag) = untagAfter (execNgetw d a j s) := by
  unfold execNgetw
  rw [State.L_untag]
  split <;> simp

theorem untagAfter_nputw (d : NReg) (a : WReg) (j : Nat) :
    untagAfter (execNputw d a j s.untag) = untagAfter (execNputw d a j s) := by
  unfold execNputw
  simp only [State.W_untag, State.nreg_untag]
  split <;> simp

theorem untagAfter_div1 (d e a b c : WReg) :
    untagAfter (execDiv1 d e a b c s.untag) = untagAfter (execDiv1 d e a b c s) := by
  by_cases hdom : s.wreg c ≠ 0 ∧ s.wreg a < s.wreg c
  · simp [execDiv1, hdom]
  · simp [execDiv1, hdom]

theorem untagAfter_nresize (d a : NReg) (cap : Int) :
    untagAfter (execNresize d a cap s.untag) = untagAfter (execNresize d a cap s) := by
  unfold execNresize
  split
  · simp
  · simp [untagAfter_cappedCommand]

theorem untagAfter_modset (a : NReg) (mk : MReg) :
    untagAfter (execModset a mk s.untag) = untagAfter (execModset a mk s) := by
  unfold execModset
  simp only [State.nreg_untag]
  repeat' split
  all_goals simp

theorem untagAfter_modinv (d a : NReg) (mk : MReg) :
    untagAfter (execModinv d a mk s.untag) = untagAfter (execModinv d a mk s) := by
  refine untagAfter_withModulus fun md => ?_
  simp only [State.red_untag]
  split <;> simp

theorem untagAfter_modsqrt (d a : NReg) (mk : MReg) :
    untagAfter (execModsqrt d a mk s.untag) = untagAfter (execModsqrt d a mk s) := by
  refine untagAfter_withOddModulus fun md => ?_
  simp only [State.red_untag]
  repeat' split
  all_goals simp

/-- Every command leaves the same state, tags aside, whether the tags are there or not. -/
theorem untagAfter_exec (i : Instr) : untagAfter (exec i s.untag) = untagAfter (exec i s) := by
  unfold exec
  cases i with
  | nop | wmovi => simp [execNop, execWmovi]
  | nsetw | ncopy => simp [execNsetw, execNcopy]
  | cteq | ctgt | ctifelse => simp [execCteq, execCtgt, execCtifelse]
  | ncmp | neq | neqzero | coprime => simp [execNcmp, execNeq, execNeqzero, execCoprime]
  | ctcondcopy | ctcondswap => simp [execCtcondcopy, execCtcondswap]
  | ngetw d a j => exact untagAfter_ngetw s d a j
  | nputw d a j => exact untagAfter_nputw s d a j
  | div1 d e a b c => exact untagAfter_div1 s d e a b c
  | addvv | subvv | addmulvvw | mulsubvvw | addvw | subvw =>
    simp [execAddvv, execSubvv, execAddmulvvw, execMulsubvvw, execAddvw, execSubvw,
      untagAfter_vectorCommand]
  | shlvu | shrvu => simp [execShlvu, execShrvu, untagAfter_vectorShift]
  | nresize d a cap => exact untagAfter_nresize s d a cap
  | nadd | nsub | nmul | nlsh | nrsh =>
    simp [execNadd, execNsub, execNmul, execNlsh, execNrsh, untagAfter_cappedCommand]
  | modset a mk => exact untagAfter_modset s a mk
  | div => exact untagAfter_withModulus fun md => by simp [untagAfter_cappedCommand]
  | shiftaddin | mod | modadd | modsub | modneg | modmul | montrep | exp =>
    exact untagAfter_withModulus fun md => by simp
  | montmul => exact untagAfter_withOddModulus fun md => by simp
  | modinv d a mk => exact untagAfter_modinv s d a mk
  | modsqrt d a mk => exact untagAfter_modsqrt s d a mk

theorem untagAfter_completion : untagAfter (completion s.untag) = untagAfter (completion s) := by
  have hcmd : s.untag.cmd = s.cmd := rfl
  unfold completion
  rw [hcmd]
  cases decode s.cmd with
  | command i => exact untagAfter_exec s i
  | illegal e => simp

/-! ## States that differ in tags only -/

/-- Two states differ in tags only exactly when they are the same without tags. -/
theorem State.sameButTags_iff : s.SameButTags t ↔ s.untag = t.untag := by
  constructor
  · rintro ⟨hrest, hregs⟩
    have hn : s.untag.n = t.untag.n := by
      refine Vector.ext fun i hi => ?_
      obtain ⟨hann, hval⟩ := hregs ⟨i, hi⟩
      simpa [State.untag] using ⟨hann.symm, hval.symm⟩
    calc s.untag = { s with n := t.untag.n } := by rw [← hn]; rfl
      _ = t.untag := (congrArg State.untag hrest).symm
  · intro h
    refine ⟨(congrArg (fun u => { u with n := t.n }) h).symm, fun i => ?_⟩
    have hi := congrArg (·.nreg i) h
    simp only [State.nreg_untag, NatReg.mk.injEq] at hi
    exact ⟨hi.1.symm, hi.2.1.symm⟩

end

/-- Settles O20: a completion acts on the untagged state, and two states that differ in tags only are
the same state untagged. -/
theorem tagsChangeNoResult : Obligations.TagsChangeNoResult := by
  intro s t s' hst hs'
  rw [State.sameButTags_iff] at hst
  have h : untagAfter (completion t) = some s'.untag := by
    rw [← untagAfter_completion, ← hst, untagAfter_completion, hs']
    rfl
  cases ht : completion t with
  | next t' =>
    rw [ht] at h
    exact ⟨t', rfl, (State.sameButTags_iff s' t').mpr (Option.some.inj h).symm⟩
  | fault r => simp [ht, untagAfter] at h
  | refused r => simp [ht, untagAfter] at h

end Sys2Proof.Machine
end

section
/-!
PROOFS. The address map of 20_memory.md R84 and its inverse agree: the register found at the offset of a
register is that register, and an aligned offset of the window is reserved or the offset of the register
found there.
-/

namespace Sys2Proof.Machine

variable {L off : Nat} {r : BusReg}

/-! ## From a register to its offset and back -/

theorem BusReg.offset_aligned (ho : r.offset = some off) : off % 8 = 0 := by
  cases r <;> simp only [BusReg.offset, Option.some.injEq, reduceCtorEq] at ho <;> omega

theorem BusReg.offset_lt (hL : L ≤ 8192) (hr : r.Present L) (ho : r.offset = some off) :
    off < windowSize := by
  cases r <;> simp only [BusReg.offset, Option.some.injEq, reduceCtorEq] at ho <;>
    simp only [BusReg.Present, windowSize] at hr ⊢ <;> omega

/-- A limb number below `L <= 8192` stays in the `0x10000` bytes of its register. -/
theorem locate_offset (hL : L ≤ 8192) (hr : r.Present L) (ho : r.offset = some off) :
    locate L off = r := by
  cases r with
  | reserved => exact absurd hr id
  | id | config | ctrl | status | cmd | errcmd | cmdcnt => obtain rfl := Option.some.inj ho; rfl
  | w i | nann i | mstat k | minv k =>
    obtain rfl := Option.some.inj ho
    simp (disch := omega) only [locate, if_neg, if_pos]
    congr 1
    ext
    simp
  | nlimb i j | mlimb k j =>
    obtain rfl := Option.some.inj ho
    simp only [BusReg.Present] at hr
    simp (disch := omega) only [locate, if_neg, if_pos]
    congr 1
    · ext; simp; omega
    · omega

/-! ## From an offset to the register found there -/

theorem locate_eq_reserved_iff (hw : off < windowSize) (ha : off % 8 = 0) :
    locate L off = .reserved ↔ reservedOffset L off := by
  unfold windowSize at hw
  unfold reservedOffset
  fun_cases locate L off <;> simp only [reduceCtorEq, false_iff, true_iff] <;> omega

theorem lt_windowSize_of_reservedOffset (h : reservedOffset L off) : off < windowSize := by
  unfold reservedOffset at h
  unfold windowSize
  omega

theorem present_offset_locate (ha : off % 8 = 0) (hr : locate L off ≠ .reserved) :
    (locate L off).Present L ∧ (locate L off).offset = some off := by
  revert hr
  fun_cases locate L off <;>
    simp [BusReg.Present, BusReg.offset] <;> omega

/-- Settles O10: both ways go through the register, found at its offset and present at the one it has. -/
theorem addressMapIsOneToOne : Obligations.AddressMapIsOneToOne := by
  refine ⟨fun L off r hL hr ho => ?_, fun L off hw ha => ⟨fun h => ?_, fun h => ?_⟩⟩
  · exact ⟨locate_offset hL hr ho, BusReg.offset_aligned ho, BusReg.offset_lt hL hr ho⟩
  · exact (locate_eq_reserved_iff hw ha).mpr h
  · exact present_offset_locate ha (mt (locate_eq_reserved_iff hw ha).mp h)

end Sys2Proof.Machine
end

section
/-!
PROOFS. What a host's write to each register does (20_memory.md R86, R88, R90 to R92, R95, R96), and what
no access changes while BUSY (R103).
-/

namespace Sys2Proof.Machine

variable {s t : State} {r : BusReg} {off : Nat} {v : BusWord} {rest : List Event}

/-! ## A write by the register it reaches -/

/-- A write at the offset of a present register is that register's write. -/
theorem step_of_writeReg (hr : r.Present s.L) (ho : r.offset = some off)
    (h : s.script = s.writeAt off v :: rest) :
    step s = .next (busWrite { s with script := rest } r v) := by
  have hstep := step_of_writeAt h (BusReg.offset_lt s.L_le hr ho) (BusReg.offset_aligned ho)
  rw [locate_offset s.L_le hr ho, State.advance, h, List.tail_cons] at hstep
  exact hstep

/-- Settles O2: the soft reset answers with the reset values, and without it only IE is written. -/
theorem ctrlWriteSetsIeThenResets : Obligations.CtrlWriteSetsIeThenResets := by
  refine fun s v rest h => ⟨fun hv => ?_, fun hv => ?_⟩
  · rw [step_of_writeReg (r := .ctrl) trivial rfl h]
    simp only [busWrite, State.writeReg, State.writeCtrl, hv]
    rfl
  · obtain ⟨a, hstep⟩ := step_of_resets (s := s) (.inr ⟨_, rest, h, rfl, rfl, rfl, hv⟩)
    exact ⟨_, hstep, State.hasResetValues_engineReset _, rfl, rfl, by simp [State.advance, h]⟩

/-- Settles O3: the acceptance condition of R88 holds or fails. -/
theorem cmdWriteIsAcceptedOrDropped : Obligations.CmdWriteIsAcceptedOrDropped := by
  intro s v rest h
  rw [step_of_writeReg (r := .cmd) trivial rfl h, busWrite, State.writeReg, State.submit]
  refine ⟨fun ⟨hb, he⟩ => ?_, fun hdrop => ?_⟩
  · rw [if_neg (by simp [hb, he])]
    rfl
  · rw [if_pos (by simpa using hdrop)]
    rfl

/-- A write that is dropped when `c` holds, answered. -/
theorem answer_ite (c : Prop) [Decidable c] (u w : State) (d : BusWord) :
    (if c then u else w).answer d = if c then u.answer d else w.answer d :=
  apply_ite (State.answer · d) c u w

/-- Settles O4: each write is dropped on the stated condition, else the named operation's value. -/
theorem registerFileWritesOrDrops : Obligations.RegisterFileWritesOrDrops := by
  refine ⟨fun s i v rest h => ?_, fun s i v rest h => ?_, fun s i j v rest hj h => ?_⟩
  · rw [step_of_writeReg (r := .w i) trivial rfl h, busWrite, State.writeReg, State.writeW,
      answer_ite]
    rfl
  · have hann : bitsOf v 0 32 = v.toNat % 2 ^ 32 := by simp [bitsOf]
    rw [step_of_writeReg (r := .nann i) trivial rfl h, busWrite, State.writeReg, State.writeAnn,
      ← ite_or, answer_ite, hann]
    rfl
  · rw [step_of_writeReg (r := .nlimb i j) hj rfl h, busWrite, State.writeReg, State.writeLimb,
      ← ite_or, answer_ite]
    rfl

/-- Settles O5: ERR goes with its code, and each other bit is kept where `v` has a 0. -/
theorem statusWriteClearsTheOnes : Obligations.StatusWriteClearsTheOnes := by
  intro s v rest h
  rw [step_of_writeReg (r := .status) trivial rfl h, busWrite, State.writeReg, State.writeStatus]
  cases v.getLsbD 2 <;> simp [State.answer, State.ackErr, Bool.and_comm]

/-- An access of another width or alignment is refused. -/
theorem busAccess_refuse {x : Access} (hbase : s.params.base ≤ x.addr)
    (hlt : x.addr < s.params.base + windowSize)
    (hbad : x.size ≠ 8 ∨ (x.addr - s.params.base) % 8 ≠ 0) :
    busAccess x s = .next (s.refuseAccess x) := by
  rw [busAccess, if_neg (by omega), if_pos hbad]

/-- Settles O9: the access is inside the window and fails the check of R86. -/
theorem busErrorsChangeNoEngineState : Obligations.BusErrorsChangeNoEngineState := by
  intro s x rest h hbase hlt hbad
  rw [step_of_access h, busAccess_refuse (s := s.advance) hbase hlt hbad, State.advance, h]
  rfl

/-! ## Accesses while BUSY -/

/-- What no host access but a soft reset changes while BUSY, beside `State.AccessFrame`. -/
structure State.BusyFrame (s t : State) : Prop where
  n    : t.n = s.n
  w    : t.w = s.w
  cmd  : t.cmd = s.cmd
  busy : t.busy = s.busy
  done : s.done = false → t.done = false

theorem State.busyFrame_writeReg (hb : s.busy = true) (hr : ¬ (r = .ctrl ∧ v.getLsbD 1 = true)) :
    s.BusyFrame (s.writeReg r v) := by
  cases r with
  | ctrl =>
    have hv : v.getLsbD 1 = false := by simpa using hr
    simp only [State.writeReg, State.writeCtrl, hv]
    exact ⟨rfl, rfl, rfl, rfl, id⟩
  | status =>
    simp only [State.writeReg, State.writeStatus]
    split <;> exact ⟨rfl, rfl, rfl, rfl, fun hd => by simp [hd]⟩
  | cmd =>
    simp only [State.writeReg, State.submit, hb, Bool.true_or, if_true]
    exact ⟨rfl, rfl, rfl, hb.symm, id⟩
  | w | nann | nlimb =>
    simp only [State.writeReg, State.writeW, State.writeAnn, State.writeLimb, hb, if_true]
    exact ⟨rfl, rfl, rfl, rfl, id⟩
  | id | config | errcmd | cmdcnt | mstat | minv | mlimb | reserved =>
    exact ⟨rfl, rfl, rfl, rfl, id⟩

theorem State.busyFrame_busRead (r : BusReg) : s.BusyFrame (busRead s r) := by
  unfold busRead
  split <;> exact ⟨rfl, rfl, rfl, rfl, id⟩

theorem State.busyFrame_busWrite (hb : s.busy = true) (hr : ¬ (r = .ctrl ∧ v.getLsbD 1 = true)) :
    s.BusyFrame (busWrite s r v) :=
  let ⟨hn, hw, hc, hbusy, hd⟩ := State.busyFrame_writeReg hb hr
  ⟨hn, hw, hc, hbusy, hd⟩

theorem State.busyFrame_busAccess {x : Access} (hb : s.busy = true) (hx : ¬ s.SoftReset x)
    (h : busAccess x s = .next t) : s.BusyFrame t := by
  obtain rfl | ⟨r, rfl⟩ | ⟨hbase, hsize, hwrite, rfl⟩ := busAccess_cases h
  · exact ⟨rfl, rfl, rfl, rfl, id⟩
  · exact State.busyFrame_busRead r
  · refine State.busyFrame_busWrite hb ?_
    rintro ⟨hloc, hdata⟩
    rw [locate_eq_ctrl_iff] at hloc
    exact hx ⟨by omega, hsize, hwrite, hdata⟩

/-- Settles O17: every answered access keeps both frames. -/
theorem busyEngineHoldsItsState : Obligations.BusyEngineHoldsItsState := by
  intro s t x rest hb hs hx ht
  rw [step_of_access hs] at ht
  obtain ⟨hn, hw, hcmd, hbusy, hdone⟩ := State.busyFrame_busAccess (s := s.advance) hb hx ht
  obtain ⟨hp, hm, herr, hcnt, hscript⟩ := State.accessFrame_busAccess (s := s.advance) hx ht
  exact ⟨hn, hw, hm, hcmd, herr, hcnt, hbusy.trans hb, hdone, hp, by simp [hscript, State.advance, hs]⟩

end Sys2Proof.Machine
end

section
/-!
PROOFS. The words a host reads from the register files (10_state.md R54 to R56; 20_memory.md R93, R94),
and the offsets that ignore a write (R87).
-/

namespace Sys2Proof.Machine

variable {s : State} {r : BusReg} {off : Nat}

/-! ## The words field by field -/

theorem toNat_ofNat_of_lt_word {x : Nat} (h : x < 2 ^ s.W) : (BitVec.ofNat 64 x).toNat = x :=
  Nat.mod_eq_of_lt (h.trans_le (Nat.pow_le_pow_right (by decide) s.W_le))

theorem limbOf_lt (W v j : Nat) : limbOf W v j < 2 ^ W := Nat.mod_lt _ (Nat.two_pow_pos W)

/-- A value of at most `j` limbs has 0 in limb `j`. -/
theorem limbOf_eq_zero {W n v j : Nat} (hW : 0 < W) (hv : v < 2 ^ n) (hj : nlimbs W n ≤ j) :
    limbOf W v j = 0 := by
  have hn : n ≤ j * W := (le_nlimbs_mul hW n).trans (Nat.mul_le_mul_right _ hj)
  have hlt : v < 2 ^ (j * W) := hv.trans_le (Nat.pow_le_pow_right (by decide) hn)
  rw [limbOf, Nat.div_eq_of_lt hlt, Nat.zero_mod]

theorem State.capacity_lt (s : State) : s.capacity < 2 ^ 32 :=
  (Nat.mul_le_mul s.L_le s.W_le).trans_lt (by decide)

/-- The number in TAGK, 0 while TAGV is 0. -/
def tagNumber (t : Option MReg) : Nat := (t.map Fin.val).getD 0

theorem tagNumber_lt (t : Option MReg) : tagNumber t < 4 := by
  cases t with
  | none => decide
  | some k => exact k.isLt

theorem NatReg.annWord_toNat (r : NatReg) :
    r.annWord.toNat = tagNumber r.tag * 2 ^ 33 + choice r.tag.isSome * 2 ^ 32 + r.ann % 2 ^ 32 := by
  have hk := tagNumber_lt r.tag
  unfold NatReg.annWord
  cases ht : r.tag with
  | none =>
    simp only [tagNumber, choice, Option.map_none, Option.getD_none, Option.isSome_none,
      Bool.false_eq_true, if_false, BitVec.toNat_ofNat]
    omega
  | some k =>
    simp only [tagNumber, choice, Option.map_some, Option.getD_some, Option.isSome_some, if_true,
      BitVec.toNat_ofNat]
    omega

theorem NatReg.annWord_fields {r : NatReg} (hann : r.ann < 2 ^ 32) :
    bitsOf r.annWord 0 32 = r.ann ∧ r.annWord.getLsbD 32 = r.tag.isSome ∧
      bitsOf r.annWord 33 2 = tagNumber r.tag ∧ bitsOf r.annWord 35 29 = 0 := by
  have hk := tagNumber_lt r.tag
  have ht := choice_le_one r.tag.isSome
  have hword := r.annWord_toNat
  simp only [bitsOf, hword]
  refine ⟨?_, getLsbD_of_choice ?_, ?_, ?_⟩
  all_goals omega

theorem ModReg.statWord_fields {r : ModReg} (hsize : r.size < 2 ^ 16) (hlead : r.leading < 2 ^ 7) :
    r.statWord.getLsbD 0 = r.valid ∧ r.statWord.getLsbD 1 = r.even ∧ bitsOf r.statWord 2 6 = 0 ∧
      bitsOf r.statWord 8 7 = r.leading ∧ bitsOf r.statWord 15 17 = 0 ∧
      bitsOf r.statWord 32 16 = r.size ∧ bitsOf r.statWord 48 16 = 0 := by
  have hvalid := choice_le_one r.valid
  have heven := choice_le_one r.even
  have hword : r.statWord.toNat = r.size * 2 ^ 32 + r.leading * 2 ^ 8 + choice r.even * 2 +
      choice r.valid := by
    rw [ModReg.statWord, BitVec.toNat_ofNat]
    omega
  simp only [bitsOf, hword]
  refine ⟨getLsbD_of_choice ?_, getLsbD_of_choice ?_, ?_, ?_, ?_, ?_, ?_⟩
  all_goals omega

/-! ## The fields of a modulus register in a state with the invariant -/

theorem leading_lt {W a : Nat} (hW : 0 < W) : nlimbs W a * W - a < W := by
  have h := Nat.div_mul_le_self (a + W - 1) W
  unfold nlimbs
  omega

/-- `size <= L`, LEADING fits its 7 bits, `m0inv` fits a limb (10_state.md R40 to R42). -/
theorem ModReg.Consistent.bounds {W L : Nat} {r : ModReg} (h : r.Consistent W L) (hW : 0 < W) :
    r.size ≤ L ∧ r.leading < W ∧ r.m0inv < 2 ^ W ∧ nlimbs W (bitlen r.val) ≤ r.size := by
  obtain ⟨hempty, hset⟩ := h
  cases hv : r.valid with
  | false =>
    rw [hempty hv]
    refine ⟨Nat.zero_le _, hW, Nat.two_pow_pos W, nlimbs_le_of_le_mul hW (Nat.zero_le _)⟩
  | true =>
    obtain ⟨-, hsize, hL, hlead, -, hinv, -⟩ := hset hv
    exact ⟨hL, by rw [hlead, hsize]; exact leading_lt hW, hinv, hsize.ge⟩

/-! ## Reads -/

theorem step_of_readReg {rest : List Event} (hr : r.Present s.L) (ho : r.offset = some off) :
    step { s with script := s.readAt off :: rest } = .next (busRead { s with script := rest } r) := by
  have hl : locate s.L off = r := locate_offset s.L_le hr ho
  rw [← hl]
  exact step_of_readAt rfl (BusReg.offset_lt s.L_le hr ho) (BusReg.offset_aligned ho)

/-- While the engine is idle every register is read (20_memory.md R93, R94). -/
theorem State.reads_of_idle (hb : s.busy = false) (hr : r.Present s.L) (ho : r.offset = some off) :
    s.Reads off (s.readReg r) := by
  intro rest
  rw [step_of_readReg hr ho, busRead, if_neg (by simp [hb]), State.readReg_withScript]
  rfl

/-- While BUSY a register file answers with a draw. -/
theorem State.reads_draw_of_busy (hb : s.busy = true) (hr : r.Present s.L) (hf : r.isFile = true)
    (ho : r.offset = some off) (rest : List Event) :
    ∃ x, step { s with script := s.readAt off :: rest } =
      .next { s with script := rest, reply := some ⟨x, false⟩, draws := s.draws + 1 } := by
  rw [step_of_readReg hr ho, busRead, if_pos (by simp [hb, hf])]
  exact ⟨_, rfl⟩

/-! ## Writes without effect -/

theorem State.writeReg_of_readOnly (hr : r.ReadOnly) (u : State) (v : BusWord) :
    u.writeReg r v = u := by
  cases r with
  | id | config | errcmd | cmdcnt | mstat | minv | mlimb => rfl
  | ctrl | status | cmd | w | nann | nlimb | reserved => exact absurd hr id

theorem State.ignores_of_readOnly (hp : r.Present s.L) (hr : r.ReadOnly) (ho : r.offset = some off) :
    s.Ignores off :=
  State.ignores_of_locate (BusReg.offset_lt s.L_le hp ho) (BusReg.offset_aligned ho)
    (locate_offset s.L_le hp ho) (State.writeReg_of_readOnly hr)

/-- Settles O8: a reserved offset is found to be reserved, and a read-only register's write does
nothing. -/
theorem reservedAndReadOnlyAreInert : Obligations.ReservedAndReadOnlyAreInert := by
  refine ⟨fun s off hres ha => ?_, fun s r off hp hr ho => State.ignores_of_readOnly hp hr ho⟩
  have hw := lt_windowSize_of_reservedOffset hres
  have hl := (locate_eq_reserved_iff hw ha).mpr hres
  exact ⟨State.reads_of_locate hw ha hl rfl, State.ignores_of_locate hw ha hl fun _ _ => rfl⟩

/-- Settles O7: each register is found at its offset, and the invariant bounds its fields. -/
theorem registerFilesReadWhileIdle : Obligations.RegisterFilesReadWhileIdle := by
  refine ⟨fun s hinv hb => ?_, fun s r off rest hb hp hf ho =>
    State.reads_draw_of_busy hb hp hf ho rest, fun s k j hj => ?_⟩
  · obtain ⟨hwords, hnats, -, hmods, -⟩ := hinv
    have hmod (k : MReg) := (hmods k).bounds s.W_pos
    refine ⟨fun i => ?_, fun i => ?_, fun i j hj => ?_, fun k => ?_, fun k => ?_, fun k j hj => ?_⟩
    · exact ⟨_, State.reads_of_idle (r := .w i) hb trivial rfl, toNat_ofNat_of_lt_word (hwords i)⟩
    · exact ⟨_, State.reads_of_idle (r := .nann i) hb trivial rfl,
        NatReg.annWord_fields ((hnats i).1.trans_lt s.capacity_lt)⟩
    · refine ⟨_, State.reads_of_idle (r := .nlimb i j) hb hj rfl,
        toNat_ofNat_of_lt_word (limbOf_lt _ _ _), fun hbeyond => ?_⟩
      exact congrArg (BitVec.ofNat 64) (limbOf_eq_zero s.W_pos (hnats i).2 hbeyond)
    · obtain ⟨hsize, hlead, -, -⟩ := hmod k
      exact ⟨_, State.reads_of_idle (r := .mstat k) hb trivial rfl,
        ModReg.statWord_fields (by have := s.L_le; omega) (by have := s.W_le; omega)⟩
    · obtain ⟨-, -, hinv, -⟩ := hmod k
      exact ⟨_, State.reads_of_idle (r := .minv k) hb trivial rfl, toNat_ofNat_of_lt_word hinv⟩
    · obtain ⟨-, -, -, hlimbs⟩ := hmod k
      refine ⟨_, State.reads_of_idle (r := .mlimb k j) hb hj rfl,
        toNat_ofNat_of_lt_word (limbOf_lt _ _ _), fun hbeyond => ?_⟩
      exact congrArg (BitVec.ofNat 64)
        (limbOf_eq_zero s.W_pos (lt_two_pow_bitlen _) (hlimbs.trans hbeyond))
  · exact ⟨State.ignores_of_readOnly (r := .mstat k) trivial trivial rfl,
      State.ignores_of_readOnly (r := .minv k) trivial trivial rfl,
      State.ignores_of_readOnly (r := .mlimb k j) hj trivial rfl⟩

end Sys2Proof.Machine
end

section
/-!
PROOFS. The byte order of 20_memory.md R85: a limb and a big-endian string are both sums of bytes at
powers of 256, and `n` limbs of `S` bytes are `n * S` bytes.
-/

namespace Sys2Proof.Machine

/-- Byte `i` of a big-endian string counted from its end, 0 outside it. -/
def byteFromEnd (bytes : List (BitVec 8)) (i : Nat) : Nat := ((bytes.reverse)[i]?.getD 0).toNat

theorem limbOfBigEndian_eq_sum (S : Nat) (bytes : List (BitVec 8)) (j t : Nat) :
    limbOfBigEndian S bytes j t = ∑ i ∈ Finset.range t, byteFromEnd bytes (j * S + i) * 256 ^ i := by
  induction t with
  | zero => rfl
  | succ t ih =>
    rw [limbOfBigEndian, ih, Finset.sum_range_succ, pow_mul]
    rfl

/-- The limbs of a string, each at its place, are its first bytes, each at its place. -/
theorem sum_limbOfBigEndian (S : Nat) (bytes : List (BitVec 8)) (n : Nat) :
    ((List.range n).map fun j => limbOfBigEndian S bytes j S * 256 ^ (j * S)).sum =
      ∑ i ∈ Finset.range (n * S), byteFromEnd bytes i * 256 ^ i := by
  induction n with
  | zero => simp
  | succ n ih =>
    rw [List.range_succ, List.map_append, List.sum_append, ih, Nat.succ_mul, Finset.sum_range_add,
      List.map_singleton, List.sum_singleton, limbOfBigEndian_eq_sum, Finset.sum_mul]
    congr 1
    refine Finset.sum_congr rfl fun i _ => ?_
    rw [pow_add]
    ring

/-- The bytes of a little-endian list at their places are the integer that Horner's rule makes of it. -/
theorem sum_bytes_eq_foldr (l : List (BitVec 8)) {n : Nat} (hn : l.length ≤ n) :
    ∑ i ∈ Finset.range n, (l[i]?.getD 0).toNat * 256 ^ i =
      l.foldr (fun b acc => acc * 256 + b.toNat) 0 := by
  induction l generalizing n with
  | nil => simp
  | cons b l ih =>
    obtain ⟨m, rfl⟩ := Nat.exists_eq_add_of_le' (Nat.one_le_of_lt hn)
    rw [Finset.sum_range_succ', List.foldr_cons, ← ih (Nat.le_of_succ_le_succ hn), Finset.sum_mul]
    simp [pow_succ, mul_assoc]

/-- The bytes of a big-endian string at their places are its integer. -/
theorem sum_byteFromEnd (bytes : List (BitVec 8)) {n : Nat} (hn : bytes.length ≤ n) :
    ∑ i ∈ Finset.range n, byteFromEnd bytes i * 256 ^ i =
      bytes.foldl (fun acc b => acc * 256 + b.toNat) 0 := by
  rw [← List.foldr_reverse]
  exact sum_bytes_eq_foldr _ (by simpa using hn)

theorem Width.bits_eq_bytes (wd : Width) : wd.bits = 8 * (wd.bits / 8) := by cases wd <;> rfl

/-- Settles O11: `2 ^ W` is `256 ^ S`, and the limbs that are loaded reach every byte of the string. -/
theorem bigEndianLoadGivesTheInteger : Obligations.BigEndianLoadGivesTheInteger := by
  intro wd bytes
  have hbits := Width.bits_eq_bytes wd
  have hlimb (j : Nat) : 2 ^ (j * wd.bits) = 256 ^ (j * (wd.bits / 8)) := by
    rw [show 256 = 2 ^ 8 from rfl, ← pow_mul, mul_left_comm, ← hbits]
  have hreach : bytes.length ≤ nlimbs wd.bits (8 * bytes.length) * (wd.bits / 8) := by
    refine Nat.le_of_mul_le_mul_left ?_ (by decide : 0 < 8)
    rw [Nat.mul_left_comm, ← hbits]
    exact le_nlimbs_mul (Width.bits_pos wd) _
  simp only [hlimb]
  rw [sum_limbOfBigEndian, sum_byteFromEnd _ hreach]

end Sys2Proof.Machine
end

section
/-!
PROOFS. The encoding (30_encoding.md R120 to R132). A command and its word determine each other: the
command of a row holds the fields its format uses, so encoding it gives the word's fields with the
unused ones cleared, and a word that decodes has these clear already.
-/

namespace Sys2Proof

/-! ## The decoder undoes the encoder -/

/-- The per-command statements of Laws/PerInstr.lean for an arbitrary command. -/
theorem fieldsDecode : (i : Instr) → Laws.FieldsDecode.Statement i
  | .nop => Laws.FieldsDecode.nop
  | .wmovi d imm => Laws.FieldsDecode.wmovi d imm
  | .nsetw d a => Laws.FieldsDecode.nsetw d a
  | .ngetw d a j => Laws.FieldsDecode.ngetw d a j
  | .nputw d a j => Laws.FieldsDecode.nputw d a j
  | .ncopy d a => Laws.FieldsDecode.ncopy d a
  | .cteq d a b => Laws.FieldsDecode.cteq d a b
  | .ctgt d a b => Laws.FieldsDecode.ctgt d a b
  | .ctifelse d a b c => Laws.FieldsDecode.ctifelse d a b c
  | .div1 d e a b c => Laws.FieldsDecode.div1 d e a b c
  | .addvv d e a b k => Laws.FieldsDecode.addvv d e a b k
  | .subvv d e a b k => Laws.FieldsDecode.subvv d e a b k
  | .shlvu d e a k s => Laws.FieldsDecode.shlvu d e a k s
  | .shrvu d e a k s => Laws.FieldsDecode.shrvu d e a k s
  | .addmulvvw d e a b k => Laws.FieldsDecode.addmulvvw d e a b k
  | .mulsubvvw d e a b k => Laws.FieldsDecode.mulsubvvw d e a b k
  | .addvw d e a b k => Laws.FieldsDecode.addvw d e a b k
  | .subvw d e a b k => Laws.FieldsDecode.subvw d e a b k
  | .ctcondcopy d a c => Laws.FieldsDecode.ctcondcopy d a c
  | .ctcondswap d e c => Laws.FieldsDecode.ctcondswap d e c
  | .nresize d a cap => Laws.FieldsDecode.nresize d a cap
  | .nadd d a b cap => Laws.FieldsDecode.nadd d a b cap
  | .nsub d a b cap => Laws.FieldsDecode.nsub d a b cap
  | .nmul d a b cap => Laws.FieldsDecode.nmul d a b cap
  | .nlsh d a b cap => Laws.FieldsDecode.nlsh d a b cap
  | .nrsh d a b cap => Laws.FieldsDecode.nrsh d a b cap
  | .ncmp d e a b c => Laws.FieldsDecode.ncmp d e a b c
  | .neq d a b => Laws.FieldsDecode.neq d a b
  | .neqzero d a => Laws.FieldsDecode.neqzero d a
  | .modset a mk => Laws.FieldsDecode.modset a mk
  | .shiftaddin d e a mk => Laws.FieldsDecode.shiftaddin d e a mk
  | .mod d a mk => Laws.FieldsDecode.mod d a mk
  | .div d a mk cap => Laws.FieldsDecode.div d a mk cap
  | .modadd d a b mk => Laws.FieldsDecode.modadd d a b mk
  | .modsub d a b mk => Laws.FieldsDecode.modsub d a b mk
  | .modneg d a mk => Laws.FieldsDecode.modneg d a mk
  | .modmul d a b mk => Laws.FieldsDecode.modmul d a b mk
  | .montmul d a b mk => Laws.FieldsDecode.montmul d a b mk
  | .montrep d a mk => Laws.FieldsDecode.montrep d a mk
  | .exp d a b mk => Laws.FieldsDecode.exp d a b mk
  | .modinv d a mk => Laws.FieldsDecode.modinv d a mk
  | .coprime d a b => Laws.FieldsDecode.coprime d a b
  | .modsqrt d a mk => Laws.FieldsDecode.modsqrt d a mk

/-- Settles O23: packing loses no field of a well-formed command, and the decoder builds the command
from its fields. -/
theorem decodeOfEncodeIsTheCommand : Obligations.DecodeOfEncodeIsTheCommand := by
  intro i hi
  obtain ⟨hrange, hdecode⟩ := fieldsDecode i hi
  rw [decode, encode, Fields.unpack_pack hrange, hdecode]

/-! ## The immediates of a word (R123 to R127) -/

theorem Fields.low16_lt (f : Fields) : f.low16 < 2 ^ 16 := Nat.mod_lt _ (by decide)

theorem Fields.high16_lt {f : Fields} (h : f.imm < 2 ^ 32) : f.high16 < 2 ^ 16 := by
  unfold Fields.high16
  omega

theorem Fields.high16_low16 (f : Fields) : f.high16 * 2 ^ 16 + f.low16 = f.imm :=
  Nat.div_add_mod' f.imm (2 ^ 16)

theorem Fields.cap_bounds {f : Fields} (h : f.imm < 2 ^ 32) : -2 ^ 31 ≤ f.cap ∧ f.cap < 2 ^ 31 := by
  unfold Fields.cap
  split <;> omega

theorem Fields.capField_cap {f : Fields} (h : f.imm < 2 ^ 32) : capField f.cap = f.imm := by
  unfold capField Fields.cap
  split <;> omega

/-! ## The encoder undoes the decoder -/

/-- IMM with the bits outside the used ones cleared. -/
def ImmUse.keep (u : ImmUse) (f : Fields) : Nat :=
  match u with
  | .none => 0
  | .low16 => f.low16
  | .all => f.imm

/-- The fields with those outside the used ones, and RSV, cleared. -/
def Uses.keep (u : Uses) (f : Fields) : Fields where
  op := f.op
  d := if u.d then f.d else 0
  e := if u.e then f.e else 0
  a := if u.a then f.a else 0
  b := if u.b then f.b else 0
  c := if u.c then f.c else 0
  mreg := if u.mreg then f.mreg else 0
  rsv := 0
  imm := u.imm.keep f

theorem ImmUse.keep_of_clear {u : ImmUse} {f : Fields} (h : u.clear f.imm = true) :
    u.keep f = f.imm := by
  cases u with
  | none => exact (beq_iff_eq.mp h).symm
  | low16 => exact Nat.mod_eq_of_lt (by simpa [ImmUse.clear] using h)
  | all => rfl

/-- Clearing the unused fields changes nothing when the decoder's check passes. -/
theorem Format.keep_of_clear {fmt : Format} {f : Fields} (h : fmt.clear f = true) :
    fmt.uses.keep f = f := by
  have keep_eq {n : Nat} [NeZero n] {u : Bool} {x : Fin n} (hx : u = true ∨ x = 0) :
      (if u then x else 0) = x := by
    obtain rfl | rfl := hx <;> simp
  simp only [Format.clear, Bool.and_eq_true, Bool.or_eq_true, beq_iff_eq] at h
  obtain ⟨⟨⟨⟨⟨⟨⟨hd, he⟩, ha⟩, hb⟩, hc⟩, hm⟩, hrsv⟩, himm⟩ := h
  simp only [Uses.keep, keep_eq hd, keep_eq he, keep_eq ha, keep_eq hb, keep_eq hc, keep_eq hm,
    ImmUse.keep_of_clear himm]
  rw [← hrsv]

/-- A row's command holds exactly the fields its format uses. -/
theorem toFields_build {r : OpcodeRow} (h : r ∈ opcodeRows) {f : Fields} (hop : f.op = r.op)
    (himm : f.imm < 2 ^ 32) : (r.build f).toFields = r.format.uses.keep f := by
  revert r
  simp only [opcodeRows, opcodeRowsAccess, opcodeRowsVector, opcodeRowsNat, opcodeRowsModular,
    List.cons_append, List.nil_append, List.forall_mem_cons]
  simp +contextual [Instr.toFields, Format.uses, Uses.keep, ImmUse.keep, Fields.high16_low16,
    Fields.capField_cap himm, -Nat.reducePow]

/-- Every row makes a well-formed command. -/
theorem wellFormed_build {r : OpcodeRow} (h : r ∈ opcodeRows) {f : Fields}
    (himm : f.imm < 2 ^ 32) : (r.build f).wellFormed = true := by
  revert r
  simp [opcodeRows, opcodeRowsAccess, opcodeRowsVector, opcodeRowsNat, opcodeRowsModular,
    Instr.wellFormed, himm, Fields.low16_lt, Fields.high16_lt himm, Fields.cap_bounds himm,
    -Nat.reducePow, -Int.reducePow, -Int.reduceNeg]

/-- A word decodes to a command only by the row of its opcode, with the unused fields clear. -/
theorem decodeFields_eq_command {f : Fields} {i : Instr} (h : decodeFields f = .command i) :
    ∃ r ∈ opcodeRows, f.op = r.op ∧ r.format.clear f = true ∧ r.build f = i := by
  unfold decodeFields at h
  split at h
  next => nomatch h
  next r hr =>
    have hop : r.op = f.op := by simpa using List.find?_some hr
    split at h
    next hc => exact ⟨r, List.mem_of_find?_eq_some hr, hop.symm, hc, Decoded.command.inj h⟩
    next => nomatch h

/-- Settles O24: a row's command holds the used fields of the word, the others are clear, and a word
is the packing of its fields. -/
theorem encodeOfDecodeIsTheWord : Obligations.EncodeOfDecodeIsTheWord := by
  intro v i h
  obtain ⟨r, hr, hop, hclear, rfl⟩ := decodeFields_eq_command h
  have himm := (Fields.unpack_inRange v).imm
  refine ⟨wellFormed_build hr himm, ?_⟩
  rw [encode, toFields_build hr hop himm, Format.keep_of_clear hclear, Fields.pack_unpack]

end Sys2Proof

namespace Sys2Proof.Machine

/-! ## The opcodes (R128, R129) -/

/-- No row has a reserved opcode. -/
theorem not_reservedOpcode_of_mem {r : OpcodeRow} (h : r ∈ opcodeRows) : ¬ reservedOpcode r.op := by
  revert r
  unfold reservedOpcode
  decide

/-- Every other opcode has a row. -/
theorem mem_opcodes {op : Nat} (h : op < 2 ^ 8) (hr : ¬ reservedOpcode op) :
    op ∈ opcodeRows.map (·.op) := by
  unfold reservedOpcode at hr
  simp only [opcodeRows, opcodeRowsAccess, opcodeRowsVector, opcodeRowsNat, opcodeRowsModular,
    List.cons_append, List.nil_append, List.map_cons, List.map_nil, List.mem_cons, List.not_mem_nil]
  omega

theorem findRow_eq_none_iff {op : Nat} (h : op < 2 ^ 8) : findRow op = none ↔ reservedOpcode op := by
  constructor
  · intro hnone
    by_contra hr
    obtain ⟨r, hmem, rfl⟩ := List.mem_map.mp (mem_opcodes h hr)
    simp [findRow_of_mem hmem] at hnone
  · intro hr
    refine List.find?_eq_none.mpr fun r hmem hop => not_reservedOpcode_of_mem hmem ?_
    rwa [beq_iff_eq.mp hop]

theorem decodeFields_eq_illegalOpcode_iff {f : Fields} :
    decodeFields f = .illegal .illegalOpcode ↔ findRow f.op = none := by
  unfold decodeFields
  cases findRow f.op with
  | none => simp
  | some r => by_cases hc : r.format.clear f <;> simp [hc]

theorem decode_eq_illegalOpcode_iff (v : BusWord) :
    decode v = .illegal .illegalOpcode ↔ reservedOpcode (bitsOf v 56 8) :=
  decodeFields_eq_illegalOpcode_iff.trans (findRow_eq_none_iff (Fields.unpack_inRange v).op)

/-- Settles O25: exactly the reserved opcodes have no row, and the decode error of a word is the error
its completion reports. -/
theorem reservedOpcodesAreIllegal : Obligations.ReservedOpcodesAreIllegal := by
  intro s
  rw [← decode_eq_illegalOpcode_iff]
  refine ⟨fun h => ?_, id⟩
  rw [completion, h]
  exact abort_answers s _

/-! ## The unused bits (R130) -/

/-- The used bits of IMM, by what the format uses of it; RSV is never used. -/
theorem unusedBit_eq_false_iff (fmt : Format) {b : Nat} (hb : b < 34) :
    Format.unusedBit fmt b = false ↔
      (fmt.uses.imm = .all ∧ b < 32) ∨ (fmt.uses.imm = .low16 ∧ b < 16) := by
  have hfield (lo : Nat) (hlo : 34 ≤ lo) : ¬ lo ≤ b := by omega
  simp only [Format.unusedBit]
  generalize fmt.uses = u
  obtain ⟨d, e, a, b', c, mreg, imm⟩ := u
  cases imm <;> simp [hfield] <;> omega

theorem uses_imm_eq_all_iff (fmt : Format) :
    fmt.uses.imm = .all ↔ fmt ∈ [Format.wi, .vs, .nr, .nc, .ns, .md] := by
  cases fmt <;> decide

theorem uses_imm_eq_low16_iff (fmt : Format) :
    fmt.uses.imm = .low16 ↔ fmt ∈ [Format.v, .vw, .ngw, .npw] := by
  cases fmt <;> decide

/-- Settles O26: the row of the opcode decides the word, and its check is that of the unused bits. -/
theorem unusedBitsAreReservedFieldErrors : Obligations.UnusedBitsAreReservedFieldErrors := by
  refine ⟨fun s r hr hop => ⟨(encoded_of_row hr s hop.symm).2, fun hbits => ?_⟩, fun fmt b hb => ?_⟩
  · rw [decode_of_row hr hop.symm, if_pos ((clear_unpack_iff _ _).2 hbits)]
    nofun
  · rw [unusedBit_eq_false_iff fmt hb, uses_imm_eq_all_iff, uses_imm_eq_low16_iff]

/-! ## Sample words -/

/-- Settles O27: by evaluating the decoder on the eight words. -/
theorem sampleWordsDecode : Obligations.SampleWordsDecode := by
  unfold Obligations.SampleWordsDecode
  decide

end Sys2Proof.Machine
end

section
/-!
PROOFS. What the limb primitives write (40_limb_primitives.md R160, R161): the whole next state of each
form of result, and the refusals of a limb-vector command.
-/

namespace Sys2Proof.Machine

/-- The "Encoding" line of a command, its row found by its opcode. -/
theorem encoded_of_findRow {op : Nat} {fmt : Format} {build : Fields → Instr}
    (h : findRow op = some ⟨op, fmt, build⟩) : Encoded op fmt build :=
  encoded_of_row (List.mem_of_find?_eq_some h)

section
variable (s : State)

theorem State.one_lt_word : 1 < 2 ^ s.W := Nat.one_lt_two_pow s.W_pos.ne'

/-- A Choice fits a word (10_state.md R39). -/
theorem State.ite_lt_word (p : Prop) [Decidable p] : (if p then 1 else 0) < 2 ^ s.W := by
  have := s.one_lt_word
  split <;> omega

theorem State.vec_lt (i : NReg) (k : Nat) : s.vec i k < 2 ^ (k * s.W) :=
  Nat.mod_lt _ (Nat.two_pow_pos _)

theorem State.failsWith_of_abort {i : Instr} {c : ErrCode} (h : exec i s = abort s c) :
    s.FailsWith i c := by
  obtain ⟨t, ht, hc⟩ := abort_answers s c
  exact ⟨t, h.trans ht, hc⟩

/-! ## Results in word registers -/

theorem finish_setW (d : WReg) {v : Nat} (hv : v < 2 ^ s.W) :
    finish (s.setW d v) = .next
      { s with
        w := s.w.set d.val v
        busy := false, done := true, cmdcnt := s.cmdcnt + 1 } := by
  rw [finish, State.setW, trunc_eq_self hv]
  rfl

theorem finish_setW_setW (d e : WReg) {q r : Nat} (hq : q < 2 ^ s.W) (hr : r < 2 ^ s.W) :
    finish ((s.setW d q).setW e r) = .next
      { s with
        w := (s.w.set d.val q).set e.val r
        busy := false, done := true, cmdcnt := s.cmdcnt + 1 } := by
  refine (finish_setW (s.setW d q) e hr).trans ?_
  rw [State.setW_w, trunc_eq_self hq]
  rfl

/-! ## Results in Nat registers -/

theorem finish_setN (d : NReg) {a v : Nat} (hv : v < 2 ^ a) :
    finish (s.setN d a v none) = .next
      { s with
        n := s.n.set d.val ⟨a, v, none⟩
        busy := false, done := true, cmdcnt := s.cmdcnt + 1 } := by
  rw [finish, State.setN, trunc_eq_self hv]
  rfl

theorem finish_setN_setN (d e : NReg) {a v v' : Nat} (hv : v < 2 ^ a) (hv' : v' < 2 ^ a) :
    finish ((s.setN d a v none).setN e a v' none) = .next
      { s with
        n := (s.n.set d.val ⟨a, v, none⟩).set e.val ⟨a, v', none⟩
        busy := false, done := true, cmdcnt := s.cmdcnt + 1 } := by
  refine (finish_setN (s.setN d a v none) e hv').trans ?_
  rw [State.setN_n, trunc_eq_self hv]
  rfl

/-! ## A vector and a word -/

theorem finish_putVec (d : NReg) (e : WReg) (k : Nat) {z c : Nat} (hz : z < 2 ^ (k * s.W))
    (hc : c < 2 ^ s.W) :
    finish (s.putVec d e k (z, c)) = .next
      { s with
        n := s.n.set d.val ⟨k * s.W, z, none⟩
        w := s.w.set e.val c
        busy := false, done := true, cmdcnt := s.cmdcnt + 1 } := by
  refine (finish_setW (s.setN d (k * s.W) z none) e hc).trans ?_
  rw [State.setN_n, trunc_eq_self hz]
  rfl

/-- The result that has its carry above `2^(k*W)` (R176, R178, R180, R182). -/
theorem finish_putVec_carry (d : NReg) (e : WReg) (k : Nat) {T : Nat}
    (hc : T / 2 ^ (k * s.W) < 2 ^ s.W) :
    finish (s.putVec d e k (T % 2 ^ (k * s.W), T / 2 ^ (k * s.W))) = .next
      { s with
        n := s.n.set d.val ⟨k * s.W, T % 2 ^ (k * s.W), none⟩
        w := s.w.set e.val (T / 2 ^ (k * s.W))
        busy := false, done := true, cmdcnt := s.cmdcnt + 1 } :=
  finish_putVec s d e k (Nat.mod_lt _ (Nat.two_pow_pos _)) hc

/-- The difference with its borrow (R177, R183). -/
theorem finish_putVec_borrow (d : NReg) (e : WReg) (k x y : Nat) :
    finish (s.putVec d e k (subVV s.W k x y)) = .next
      { s with
        n := s.n.set d.val
          ⟨k * s.W, (((x : Int) - (y : Int)) % (2 ^ (k * s.W) : Nat)).toNat, none⟩
        w := s.w.set e.val (if (x : Int) - (y : Int) < 0 then 1 else 0)
        busy := false, done := true, cmdcnt := s.cmdcnt + 1 } := by
  have hz := toNat_emod_lt ((x : Int) - (y : Int)) (Nat.two_pow_pos (k * s.W))
  rw [← finish_putVec s d e k hz (s.ite_lt_word _)]
  simp [subVV, choice]

/-! ## The checks of a limb-vector command (30_encoding.md R124, R125) -/

variable {k : Nat} (d : NReg) (e : WReg) (r : Nat × Nat)

theorem vectorCommand_of_count (hk : 1 ≤ k ∧ k ≤ s.L) :
    vectorCommand s d e k r = finish (s.putVec d e k r) := by
  rw [vectorCommand_eq, if_neg (by omega)]

theorem vectorCommand_of_not_count (hk : k = 0 ∨ s.L < k) :
    vectorCommand s d e k r = abort s .length := by
  rw [vectorCommand_eq, if_pos hk]

theorem vectorShift_of_count (hk : 1 ≤ k ∧ k ≤ s.L) {amount : Nat} (ha : amount < s.W) :
    vectorShift s d e k amount r = finish (s.putVec d e k r) := by
  rw [vectorShift_eq, if_neg (by omega), if_neg (by omega)]

theorem vectorShift_of_not_count (hk : k = 0 ∨ s.L < k) (amount : Nat) :
    vectorShift s d e k amount r = abort s .length := by
  rw [vectorShift_eq, if_pos hk]

theorem vectorShift_of_not_amount (hk : 1 ≤ k ∧ k ≤ s.L) {amount : Nat} (ha : s.W ≤ amount) :
    vectorShift s d e k amount r = abort s .shift := by
  rw [vectorShift_eq, if_neg (by omega), if_pos ha]

end

end Sys2Proof.Machine
end
section
/-!
PROOFS. The word commands and the shift-and-subtract loops (40_limb_primitives.md R163, R170 to R174;
46_inverse.md R344).
-/

namespace Sys2Proof.Machine

/-! ## Decisions (R163) -/

/-- The mask of a Choice is its negation mod `2^W`. -/
theorem toNat_neg_emod (W v : Nat) : ((0 - (v : Int)) % 2 ^ W).toNat = wordMask W v := by
  have hle : v % 2 ^ W ≤ 2 ^ W := (Nat.mod_lt v (Nat.two_pow_pos W)).le
  have h : (wordMask W v : Int) = (0 - (v : Int)) % 2 ^ W := by
    rw [wordMask, Int.natCast_mod, Nat.cast_sub hle]
    push_cast
    rw [Int.sub_emod_emod, Int.sub_emod, Int.emod_self, ← Int.zero_emod (2 ^ W), ← Int.sub_emod]
    simp
  rw [← h, Int.toNat_natCast]

theorem ctIfElse_self (W v x : Nat) : ctIfElse W v x x = x := by simp [ctIfElse]

/-- Settles O32: a Choice fits a word, and the mask formula is `ctIfElse`. -/
theorem wordDecisions : Obligations.WordDecisions := by
  refine ⟨⟨encoded_of_findRow rfl, fun s d a b => ?_⟩, ⟨encoded_of_findRow rfl, fun s d a b => ?_⟩,
    encoded_of_findRow rfl, fun s d a b c hw => ?_⟩
  · rw [exec, execCteq, ctEq_eq]
    exact finish_setW s d (s.ite_lt_word _)
  · rw [exec, execCtgt, ctGt_eq]
    exact finish_setW s d (s.ite_lt_word _)
  · simp only [toNat_neg_emod, ← ctIfElse.eq_def]
    refine ⟨finish_setW s d (ctIfElse_lt _ (hw a) (hw b)), fun h => ?_, fun h => ?_, fun h => ?_⟩
    · rw [h, ctIfElse_one s.W_pos (hw a) (hw b)]
    · rw [h, ctIfElse_zero]
    · rw [h, ctIfElse_self]

/-! ## Division (R173) -/

/-- The quotient of `hi:lo` fits a word when `hi` is below the divisor. -/
theorem div_lt_word {W hi lo dv : Nat} (hhi : hi < dv) (hlo : lo < 2 ^ W) :
    (hi * 2 ^ W + lo) / dv < 2 ^ W := by
  refine Nat.div_lt_of_lt_mul ?_
  calc hi * 2 ^ W + lo < (hi + 1) * 2 ^ W := by rw [Nat.succ_mul]; omega
    _ ≤ dv * 2 ^ W := Nat.mul_le_mul_right _ hhi

/-- Settles O33: in the domain both results fit a word, outside it both are draws below `2^W`. -/
theorem twoWordByOneWordDivision : Obligations.TwoWordByOneWordDivision := by
  refine ⟨encoded_of_findRow rfl, fun s d e a b c hw => ⟨fun hdom => ?_, fun hout => ?_⟩⟩
  · obtain ⟨hc, hlt⟩ := hdom
    have hr : (s.wreg a * 2 ^ s.W + s.wreg b) % s.wreg c < 2 ^ s.W :=
      (Nat.mod_lt _ (Nat.pos_of_ne_zero hc)).trans (hw c)
    rw [exec, execDiv1, if_pos ⟨hc, hlt⟩]
    exact finish_setW_setW s d e (div_lt_word hlt (hw b)) hr
  · have hB : 0 < 2 ^ s.W := Nat.two_pow_pos _
    have hq := State.draw_lt (s := s) hB
    have hr := State.draw_lt (s := s.drawn) hB
    refine ⟨_, _, hq, hr, ?_⟩
    rw [exec, execDiv1, if_neg (by omega)]
    exact finish_setW_setW s.drawn.drawn d e hq hr

/-! ## The shift-and-subtract loop (R174, R344) -/

/-- The masked subtract of the loop: one quotient bit and the new remainder, for a value
below twice the divisor. -/
theorem masked_subtract {width dv r : Nat} (hr : r < 2 * dv) (hwidth : 2 * dv ≤ 2 ^ width) :
    1 - ctGt dv r = r / dv ∧ ctIfElse width (1 - ctGt dv r) (r - dv) r = r % dv := by
  rw [ctGt_eq]
  split
  · next hlt => simp [Nat.div_eq_of_lt hlt, Nat.mod_eq_of_lt hlt]
  · next hge =>
    have hpos : 0 < width := Nat.pos_of_ne_zero (by rintro rfl; omega)
    have hdiv : r / dv = 1 := Nat.div_eq_of_lt_le (by omega) (by omega)
    have hmod : r % dv = r - dv := by rw [Nat.mod_eq_sub_mod (by omega), Nat.mod_eq_of_lt (by omega)]
    exact ⟨hdiv.symm, by rw [ctIfElse_one hpos (by omega) (by omega), hmod]⟩

namespace Datapath

/-- The loop divides the remainder so far, followed by the `i` low bits of `lo`, and appends the
quotient bits to those it has. -/
theorem divLoop_eq {width dv : Nat} (lo : Nat) (hwidth : 2 * dv ≤ 2 ^ width) :
    ∀ i q r, r < dv → divLoop width lo dv i (q, r) =
      (q * 2 ^ i + (r * 2 ^ i + lo % 2 ^ i) / dv, (r * 2 ^ i + lo % 2 ^ i) % dv) := by
  intro i
  induction i with
  | zero => intro q r hr; simp [divLoop, Nat.mod_one, Nat.div_eq_of_lt hr, Nat.mod_eq_of_lt hr]
  | succ i ih =>
    intro q r hr
    set r' := 2 * r + lo / 2 ^ i % 2 with hr'
    obtain ⟨hfits, hsub⟩ := masked_subtract (r := r') (by omega) hwidth
    have hstep : divLoop width lo dv (i + 1) (q, r) =
        divLoop width lo dv i (2 * q + r' / dv, r' % dv) := by
      rw [← hfits, ← hsub]
      rfl
    have hnum : r * 2 ^ (i + 1) + lo % 2 ^ (i + 1) =
        dv * (r' / dv * 2 ^ i) + (r' % dv * 2 ^ i + lo % 2 ^ i) := by
      rw [Nat.mod_pow_succ, Nat.pow_succ]
      calc r * (2 ^ i * 2) + (lo % 2 ^ i + 2 ^ i * (lo / 2 ^ i % 2))
          = r' * 2 ^ i + lo % 2 ^ i := by rw [hr']; ring
        _ = (dv * (r' / dv) + r' % dv) * 2 ^ i + lo % 2 ^ i := by rw [Nat.div_add_mod]
        _ = _ := by ring
    rw [hstep, ih _ _ (Nat.mod_lt _ (by omega)), hnum, Nat.mul_add_div (by omega), Nat.mul_add_mod]
    ring_nf

/-- R174: quotient and remainder of `hi:lo`. -/
theorem div_eq {W hi lo dv : Nat} (hhi : hi < dv) (hlo : lo < 2 ^ W) (hdv : dv < 2 ^ W) :
    div W hi lo dv = ((hi * 2 ^ W + lo) / dv, (hi * 2 ^ W + lo) % dv) := by
  rw [div, divLoop_eq lo (by rw [Nat.pow_succ]; omega) _ _ _ hhi, Nat.mod_eq_of_lt hlo, Nat.zero_mul,
    Nat.zero_add]

/-- R344: the quotient of a `2*nM`-limb value. -/
theorem divDouble_eq {W nM v x : Nat} (hx : 0 < x) (hv : v < 2 ^ (2 * nM * W))
    (hxlt : x < 2 ^ (2 * nM * W)) : divDouble W nM v x = v / x := by
  rw [divDouble, divLoop_eq v (by rw [Nat.pow_succ]; omega) _ _ _ hx, Nat.mod_eq_of_lt hv]
  simp

end Datapath

/-- Settles O51: both loops are the restoring division of `divLoop_eq`. -/
theorem divisionLoopsDivide : Obligations.DivisionLoopsDivide := by
  refine ⟨fun wd hi lo dv => Datapath.div_eq, fun wd nM v x hx hv hxlt => ?_⟩
  have hwiden : 2 ^ (nM * wd.bits) ≤ 2 ^ (2 * nM * wd.bits) :=
    Nat.pow_le_pow_right (by decide) (Nat.mul_le_mul_right _ (by omega))
  exact Datapath.divDouble_eq hx hv (hxlt.trans_le hwiden)

end Sys2Proof.Machine
end
section
/-!
PROOFS. The limb-vector commands (40_limb_primitives.md R176 to R183): each carry or borrow fits the word
it is written to.
-/

namespace Sys2Proof.Machine

/-! ## Bounds on a carry and a borrow -/

/-- The carry of a sum of two vectors, or of a vector and a word, is a Choice. -/
theorem add_div_le_one {B x y : Nat} (hx : x < B) (hy : y < B) : (x + y) / B ≤ 1 :=
  Nat.lt_succ_iff.mp (Nat.div_lt_of_lt_mul (by omega))

/-- The carry word of `Z + X*y` (R180). -/
theorem add_mul_div_lt {B P z x y : Nat} (hz : z < B) (hx : x < B) (hy : y < P) :
    (z + x * y) / B < P := by
  refine Nat.div_lt_of_lt_mul ?_
  calc z + x * y < B + B * y := Nat.add_lt_add_of_lt_of_le hz (Nat.mul_le_mul_right _ hx.le)
    _ = B * (y + 1) := by ring
    _ ≤ B * P := Nat.mul_le_mul_left _ hy

theorem mulSubVVW_vector (W k z x y : Nat) :
    ((mulSubVVW W k z x y).1 : Int) = ((z : Int) - x * y) % (2 ^ (k * W) : Nat) := by
  have hB : ((2 ^ (k * W) : Nat) : Int) ≠ 0 := by exact_mod_cast (Nat.two_pow_pos (k * W)).ne'
  rw [← Int.toNat_of_nonneg (Int.emod_nonneg _ hB)]
  simp [mulSubVVW]

theorem mulSubVVW_vector_lt (W k z x y : Nat) : (mulSubVVW W k z x y).1 < 2 ^ (k * W) := by
  have h := mulSubVVW_vector W k z x y
  have hB : (0 : Int) < (2 ^ (k * W) : Nat) := by exact_mod_cast Nat.two_pow_pos (k * W)
  exact_mod_cast h ▸ Int.emod_lt_of_pos _ hB

/-- The borrow word of `Z - X*y` fits a word, by the identity of R181. -/
theorem mulSubVVW_borrow_lt {W k z x y : Nat} (hz : z < 2 ^ (k * W)) (hx : x < 2 ^ (k * W))
    (hy : y < 2 ^ W) : (mulSubVVW W k z x y).2 < 2 ^ W := by
  have hid : (mulSubVVW W k z x y).1 + x * y = z + (mulSubVVW W k z x y).2 * 2 ^ (k * W) := by
    have := mulSubVVW_spec W k z x y hz
    zify
    linarith
  calc (mulSubVVW W k z x y).2 ≤ ((mulSubVVW W k z x y).1 + x * y) / 2 ^ (k * W) := by
        rw [Nat.le_div_iff_mul_le (Nat.two_pow_pos _)]
        omega
    _ < 2 ^ W := add_mul_div_lt (mulSubVVW_vector_lt W k z x y) hx hy

/-! ## The obligations -/

/-- Settles O34: the carry of a sum is a Choice. -/
theorem vectorAddAndSubtract : Obligations.VectorAddAndSubtract := by
  refine ⟨⟨encoded_of_findRow rfl, fun s d e a b k => ⟨fun hk => ?_, fun hk => ?_⟩⟩,
    encoded_of_findRow rfl, fun s d e a b k => ⟨fun hk => ?_, fun hk => ?_⟩⟩
  · have hc := (add_div_le_one (s.vec_lt a k) (s.vec_lt b k)).trans_lt s.one_lt_word
    exact (vectorCommand_of_count s d e _ hk).trans (finish_putVec_carry s d e k hc)
  · exact s.failsWith_of_abort (vectorCommand_of_not_count s d e _ hk)
  · exact (vectorCommand_of_count s d e _ hk).trans
      (finish_putVec_borrow s d e k (s.vec a k) (s.vec b k))
  · exact s.failsWith_of_abort (vectorCommand_of_not_count s d e _ hk)

/-- Settles O35: the bits shifted out are fewer than `W`, on either side. -/
theorem vectorShifts : Obligations.VectorShifts := by
  refine ⟨⟨encoded_of_findRow rfl, fun s d e a k amount =>
      ⟨fun hk ha => ?_, fun hk => ?_, fun hk ha => ?_⟩⟩,
    encoded_of_findRow rfl, fun s d e a k amount =>
      ⟨fun hk ha => ?_, fun hk => ?_, fun hk ha => ?_⟩⟩
  · have hc : s.vec a k * 2 ^ amount / 2 ^ (k * s.W) < 2 ^ s.W :=
      calc s.vec a k * 2 ^ amount / 2 ^ (k * s.W) < 2 ^ amount :=
            Nat.div_lt_of_lt_mul (Nat.mul_lt_mul_of_pos_right (s.vec_lt a k) (Nat.two_pow_pos _))
        _ ≤ 2 ^ s.W := Nat.pow_le_pow_right (by decide) ha.le
    exact (vectorShift_of_count s d e _ hk ha).trans (finish_putVec_carry s d e k hc)
  · exact s.failsWith_of_abort (vectorShift_of_not_count s d e _ hk amount)
  · exact s.failsWith_of_abort (vectorShift_of_not_amount s d e _ hk ha)
  · have hz : s.vec a k / 2 ^ amount < 2 ^ (k * s.W) :=
      (Nat.div_le_self _ _).trans_lt (s.vec_lt a k)
    have hc : s.vec a k % 2 ^ amount * 2 ^ (s.W - amount) < 2 ^ s.W :=
      calc s.vec a k % 2 ^ amount * 2 ^ (s.W - amount) < 2 ^ amount * 2 ^ (s.W - amount) :=
            Nat.mul_lt_mul_of_pos_right (Nat.mod_lt _ (Nat.two_pow_pos _)) (Nat.two_pow_pos _)
        _ = 2 ^ s.W := by rw [← Nat.pow_add, Nat.add_sub_cancel' ha.le]
    exact (vectorShift_of_count s d e _ hk ha).trans (finish_putVec s d e k hz hc)
  · exact s.failsWith_of_abort (vectorShift_of_not_count s d e _ hk amount)
  · exact s.failsWith_of_abort (vectorShift_of_not_amount s d e _ hk ha)

/-- Settles O36: the identity of R181 bounds the borrow word as R180 bounds the carry word. -/
theorem vectorMultiplyAccumulate : Obligations.VectorMultiplyAccumulate := by
  refine ⟨⟨encoded_of_findRow rfl, fun s d e a b k => ⟨fun hk hw => ?_, fun hk => ?_⟩⟩,
    encoded_of_findRow rfl, fun s d e a b k => ⟨fun hk hw => ?_, fun hk => ?_⟩⟩
  · have hc := add_mul_div_lt (s.vec_lt d k) (s.vec_lt a k) (hw b)
    exact (vectorCommand_of_count s d e _ hk).trans (finish_putVec_carry s d e k hc)
  · exact s.failsWith_of_abort (vectorCommand_of_not_count s d e _ hk)
  · have hborrow := mulSubVVW_borrow_lt (s.vec_lt d k) (s.vec_lt a k) (hw b)
    have hid := mulSubVVW_spec s.W k (s.vec d k) (s.vec a k) (s.wreg b) (s.vec_lt d k)
    exact ⟨_, _, hborrow, mulSubVVW_vector _ _ _ _ _, by exact_mod_cast hid,
      (vectorCommand_of_count s d e _ hk).trans
        (finish_putVec s d e k (mulSubVVW_vector_lt _ _ _ _ _) hborrow)⟩
  · exact s.failsWith_of_abort (vectorCommand_of_not_count s d e _ hk)

/-- Settles O37: a word is below `2^(k*W)`, so the carry is that of two vectors. -/
theorem vectorAndWord : Obligations.VectorAndWord := by
  refine ⟨⟨encoded_of_findRow rfl, fun s d e a b k => ⟨fun hk hw => ?_, fun hk => ?_⟩⟩,
    encoded_of_findRow rfl, fun s d e a b k => ⟨fun hk => ?_, fun hk => ?_⟩⟩
  · have hword : s.wreg b < 2 ^ (k * s.W) :=
      (hw b).trans_le (Nat.pow_le_pow_right (by decide) (Nat.le_mul_of_pos_left _ hk.1))
    have hc : (s.vec a k + s.wreg b) / 2 ^ (k * s.W) ≤ 1 := add_div_le_one (s.vec_lt a k) hword
    exact ⟨hc, (vectorCommand_of_count s d e _ hk).trans
      (finish_putVec_carry s d e k (hc.trans_lt s.one_lt_word))⟩
  · exact s.failsWith_of_abort (vectorCommand_of_not_count s d e _ hk)
  · exact (vectorCommand_of_count s d e _ hk).trans
      (finish_putVec_borrow s d e k (s.vec a k) (s.wreg b))
  · exact s.failsWith_of_abort (vectorCommand_of_not_count s d e _ hk)

end Sys2Proof.Machine
end
section
/-!
PROOFS. Conditional copy and swap (40_limb_primitives.md R164, R185, R186): the limb mask bit by bit.
-/

namespace Sys2Proof.Machine

/-- Bit `i` of the limb mask is bit `i mod W` of the word mask (R164). -/
theorem testBit_limbMask {W : Nat} (hW : 0 < W) (v t i : Nat) :
    (limbMask W v t).testBit i = (decide (i < t * W) && (wordMask W v).testBit (i % W)) := by
  induction t with
  | zero => simp [limbMask]
  | succ t ih =>
    rw [limbMask, Nat.add_comm, Nat.mul_comm, Nat.testBit_two_pow_mul_add _ (limbMask_lt W v t), ih,
      Nat.succ_mul]
    by_cases hlow : i < t * W
    · simp [hlow, show i < t * W + W by omega]
    · by_cases hlimb : i < t * W + W
      · have hmod : i % W = i - t * W := by
          conv_lhs => rw [← Nat.sub_add_cancel (Nat.le_of_not_lt hlow)]
          rw [Nat.add_mul_mod_self_right, Nat.mod_eq_of_lt (by omega)]
        simp [hlow, hlimb, hmod]
      · have hhigh : (wordMask W v).testBit (i - t * W) = false :=
          Nat.testBit_lt_two_pow ((wordMask_lt W v).trans_le
            (Nat.pow_le_pow_right (by decide) (by omega)))
        simp [hlow, hlimb, hhigh]

/-- `Sel` takes each bit from one operand or the other by the word mask (R164). -/
theorem testBit_sel {W t x y : Nat} (hW : 0 < W) (v : Nat) (hx : x < 2 ^ (t * W))
    (hy : y < 2 ^ (t * W)) (i : Nat) :
    (sel W v x y t).testBit i =
      if (wordMask W v).testBit (i % W) then x.testBit i else y.testBit i := by
  rw [sel, Nat.testBit_xor, Nat.testBit_and, Nat.testBit_xor, testBit_limbMask hW]
  by_cases hi : i < t * W
  · cases (wordMask W v).testBit (i % W) <;> simp [hi, Bool.xor_left_comm]
  · have hle : 2 ^ (t * W) ≤ 2 ^ i := Nat.pow_le_pow_right (by decide) (by omega)
    simp [hi, Nat.testBit_lt_two_pow (hx.trans_le hle), Nat.testBit_lt_two_pow (hy.trans_le hle)]

/-- The two results of a swap are selections from the old values (R186). -/
theorem execCtcondswap_eq (s : State) (d e : NReg) (c : WReg) :
    execCtcondswap d e c s =
      let len := max (s.nreg d).ann (s.nreg e).ann
      let t := nlimbs s.W len
      finish ((s.setN d len (sel s.W (s.wreg c) (s.nreg e).val (s.nreg d).val t) none).setN e len
        (sel s.W (s.wreg c) (s.nreg d).val (s.nreg e).val t) none) := by
  simp only [execCtcondswap, sel, Nat.xor_comm (s.nreg e).val (s.nreg d).val]

section
variable {s : State}

/-- Values fit the longer announced length of two registers (R31, R185). -/
theorem State.NatsFit.lt_max (h : s.NatsFit) (i j : NReg) :
    (s.nreg i).val < 2 ^ max (s.nreg i).ann (s.nreg j).ann ∧
      (s.nreg j).val < 2 ^ max (s.nreg i).ann (s.nreg j).ann :=
  ⟨(h i).2.trans_le (Nat.pow_le_pow_right (by decide) (le_max_left _ _)),
    (h j).2.trans_le (Nat.pow_le_pow_right (by decide) (le_max_right _ _))⟩

theorem State.lt_two_pow_nlimbs {a v : Nat} (h : v < 2 ^ a) : v < 2 ^ (nlimbs s.W a * s.W) :=
  h.trans_le (Nat.pow_le_pow_right (by decide) (le_nlimbs_mul s.W_pos a))

end

/-- Settles O38: each result is a selection, which fits the longer announced length. -/
theorem conditionalCopyAndSwap : Obligations.ConditionalCopyAndSwap := by
  refine ⟨⟨encoded_of_findRow rfl, fun s d a c hn => ?_⟩,
    encoded_of_findRow rfl, fun s d e c hn => ?_⟩
  · obtain ⟨hd, ha⟩ := hn.lt_max d a
    have hd' := State.lt_two_pow_nlimbs (s := s) hd
    have ha' := State.lt_two_pow_nlimbs (s := s) ha
    simp only [toNat_neg_emod]
    refine ⟨_, testBit_sel s.W_pos (s.wreg c) ha' hd', fun h => ?_, fun h => ?_,
      finish_setN s d (sel_lt _ _ ha hd)⟩
    · rw [h, sel_one s.W_pos ha' hd']
    · rw [h, sel_zero]
  · obtain ⟨hd, he⟩ := hn.lt_max d e
    have hd' := State.lt_two_pow_nlimbs (s := s) hd
    have he' := State.lt_two_pow_nlimbs (s := s) he
    simp only [toNat_neg_emod]
    refine ⟨_, _, testBit_sel s.W_pos (s.wreg c) he' hd', testBit_sel s.W_pos (s.wreg c) hd' he',
      fun h => ?_, fun h => ?_, (execCtcondswap_eq s d e c).trans
        (finish_setN_setN s d e (sel_lt _ _ he hd) (sel_lt _ _ hd he))⟩
    · rw [h, sel_one s.W_pos he' hd', sel_one s.W_pos hd' he']
      exact ⟨rfl, rfl⟩
    · rw [h, sel_zero, sel_zero]
      exact ⟨rfl, rfl⟩

end Sys2Proof.Machine
end
section
/-!
PROOFS. Nat registers and Nat arithmetic (41_nat_arithmetic.md R200 to R216): each result fits the
register it is written to.
-/

namespace Sys2Proof.Machine

section
variable (s : State)

/-! ## Results that fit -/

theorem Width.le_bits (w : Width) : 32 ≤ w.bits := by cases w <;> decide

/-- The immediate of WMOVI fits a word of either width (R201). -/
theorem State.lt_word_of_lt_imm {imm : Nat} (h : imm < 2 ^ 32) : imm < 2 ^ s.W :=
  h.trans_le (Nat.pow_le_pow_right (by decide) (Width.le_bits _))

/-- A result written with its reduced tag (R205). -/
theorem finish_setN_tag (d : NReg) {a v : Nat} (t : Option MReg) (hv : v < 2 ^ a) :
    finish (s.setN d a v t) = .next
      { s with
        n := s.n.set d.val ⟨a, v, t⟩
        busy := false, done := true, cmdcnt := s.cmdcnt + 1 } := by
  rw [finish, State.setN, trunc_eq_self hv]
  rfl

theorem finish_setW_setW_setW (d e c : WReg) {x y z : Nat} (hx : x < 2 ^ s.W) (hy : y < 2 ^ s.W)
    (hz : z < 2 ^ s.W) :
    finish (((s.setW d x).setW e y).setW c z) = .next
      { s with
        w := ((s.w.set d.val x).set e.val y).set c.val z
        busy := false, done := true, cmdcnt := s.cmdcnt + 1 } := by
  refine (finish_setW_setW (s.setW d x) e c hy hz).trans ?_
  rw [State.setW_w, trunc_eq_self hx]
  rfl

/-- A command of the capped form writes a result `v` below `2^len`, or ends with LENGTH when its
announced length `len` passes `L*W` (R215, R216). -/
theorem exec_cappedCommand {i : Instr} {d : NReg} {len v : Nat} {r : Nat → Nat}
    (hexec : exec i s = cappedCommand s d len r) (hr : r len = v) (hv : v < 2 ^ len) :
    (len ≤ s.L * s.W →
      exec i s = .next
        { s with
          n := s.n.set d.val ⟨len, v, none⟩
          busy := false, done := true, cmdcnt := s.cmdcnt + 1 }) ∧
    (s.L * s.W < len → s.FailsWith i .length) := by
  rw [cappedCommand_eq, hr] at hexec
  refine ⟨fun hle => ?_, fun hlt => ?_⟩
  · rw [hexec, if_neg hle.not_gt, finish_setN s d hv]
  · exact s.failsWith_of_abort (hexec.trans (if_pos hlt))

end

/-! ## The obligations -/

/-- Settles O30: an immediate, a word and a copied value fit where they are written. -/
theorem registerMovesAndNop : Obligations.RegisterMovesAndNop :=
  ⟨⟨encoded_of_findRow rfl, fun _ => rfl⟩,
    ⟨encoded_of_findRow rfl, fun s d _ himm => finish_setW s d (s.lt_word_of_lt_imm himm)⟩,
    ⟨encoded_of_findRow rfl, fun s d a hw => finish_setN s d (hw a)⟩,
    encoded_of_findRow rfl, fun s d a hn => finish_setN_tag s d (s.nreg a).tag (hn a).2⟩

/-- Settles O31: a limb fits a word and is 0 beyond the announced length; the write masks to it. -/
theorem limbReadAndLimbWrite : Obligations.LimbReadAndLimbWrite := by
  refine ⟨⟨encoded_of_findRow rfl, fun s d a j => ⟨fun hj => ?_, fun _ hj hn => ?_, fun hj => ?_⟩⟩,
    encoded_of_findRow rfl, fun s d a j => ⟨fun hj => ?_, fun hj => ?_⟩⟩
  · rw [exec, execNgetw, if_neg hj.not_ge]
    exact finish_setW s d (limbOf_lt _ _ _)
  · exact limbOf_eq_zero s.W_pos (hn a).2 hj
  · exact s.failsWith_of_abort (if_pos hj)
  · rw [exec, execNputw, if_neg hj.not_ge]
    rfl
  · exact s.failsWith_of_abort (if_pos hj)

/-- Settles O39: each result is taken mod `2^cap`, and a negative cap is LENGTH for NRESIZE alone. -/
theorem natArithmetic : Obligations.NatArithmetic := by
  refine ⟨⟨encoded_of_findRow rfl, fun s d a cap => ?_⟩,
    ⟨encoded_of_findRow rfl, fun s d a b cap => ?_⟩,
    ⟨encoded_of_findRow rfl, fun s d a b cap => ?_⟩,
    encoded_of_findRow rfl, fun s d a b cap => ?_⟩
  · have hcapped (hpos : ¬ cap < 0) := exec_cappedCommand s (i := .nresize d a cap) (if_neg hpos) rfl
      (Nat.mod_lt _ (Nat.two_pow_pos _))
    refine ⟨fun ⟨hpos, hle⟩ => (hcapped hpos.not_gt).1 (Int.toNat_le.mpr (mod_cast hle)),
      fun hcap => ?_⟩
    by_cases hneg : cap < 0
    · exact s.failsWith_of_abort (if_pos hneg)
    · exact (hcapped hneg).2 (Int.lt_toNat.mpr (mod_cast hcap.resolve_left hneg))
  · exact exec_cappedCommand s (execNadd.eq_def ..) rfl (Nat.mod_lt _ (Nat.two_pow_pos _))
  · exact exec_cappedCommand s (execNsub.eq_def ..) rfl (mod_cast toNat_emod_lt _ (Nat.two_pow_pos _))
  · exact exec_cappedCommand s (execNmul.eq_def ..) rfl (Nat.mod_lt _ (Nat.two_pow_pos _))

/-- Settles O40: the shifts of the model are the multiplication and the division by `2^s`. -/
theorem natShifts : Obligations.NatShifts := by
  refine ⟨⟨encoded_of_findRow rfl, fun s d a b cap => ?_⟩,
    encoded_of_findRow rfl, fun s d a b cap => ?_⟩
  · exact exec_cappedCommand s (execNlsh.eq_def ..) (shlTrunc_eq ..) (Nat.mod_lt _ (Nat.two_pow_pos _))
  · exact exec_cappedCommand s (execNrsh.eq_def ..) (congrArg (· % _) (shrNat_eq ..))
      (Nat.mod_lt _ (Nat.two_pow_pos _))

/-- Settles O41: each Choice is the comparison of the two values, and fits a word. -/
theorem natComparisons : Obligations.NatComparisons := by
  refine ⟨⟨encoded_of_findRow rfl, fun s d e a b c => ?_⟩,
    ⟨encoded_of_findRow rfl, fun s d a b => ?_⟩, encoded_of_findRow rfl, fun s d a => ?_⟩
  · simp only [exec, execNcmp, ctGt_eq, ctEq_eq]
    exact finish_setW_setW_setW s d e c (s.ite_lt_word _) (s.ite_lt_word _) (s.ite_lt_word _)
  · rw [exec, execNeq, ctEq_eq]
    exact finish_setW s d (s.ite_lt_word _)
  · rw [exec, execNeqzero, ctEq_eq]
    exact finish_setW s d (s.ite_lt_word _)

end Sys2Proof.Machine
end
section
/-!
PROOFS. Modulus construction and the reduction commands (42_modulus_reduction.md R240 to R247): the
written modulus register, and the whole next state of a modular result.
-/

namespace Sys2Proof.Machine

section
variable (s : State)

/-! ## A modular result (R242) -/

theorem finish_setResidue (d : NReg) (mk : MReg) (md : ModReg) {r : Nat} (hr : r < md.val) :
    finish (s.setResidue d mk md r) = .next
      { s with
        n := s.n.set d.val ⟨bitlen md.val, r, some mk⟩
        busy := false, done := true, cmdcnt := s.cmdcnt + 1 } :=
  finish_setN_tag s d (some mk) (lt_two_pow_of_lt hr)

/-- A modular result with a quotient word beside it (R243). -/
theorem finish_setResidue_setW (d : NReg) (e : WReg) (mk : MReg) (md : ModReg) {r q : Nat}
    (hr : r < md.val) (hq : q < 2 ^ s.W) :
    finish ((s.setResidue d mk md r).setW e q) = .next
      { s with
        n := s.n.set d.val ⟨bitlen md.val, r, some mk⟩
        w := s.w.set e.val q
        busy := false, done := true, cmdcnt := s.cmdcnt + 1 } := by
  refine (finish_setW (s.setResidue d mk md r) e hq).trans ?_
  rw [State.setResidue, State.setN_n, trunc_eq_self (lt_two_pow_of_lt hr)]
  rfl

/-- A command with a modulus operand ends with MODULUS_INVALID without one (R242). -/
theorem State.failsWith_of_invalid {i : Instr} {mk : MReg} (hv : (s.mreg mk).valid = false)
    {k : ModReg → Host.Outcome State Fault Refusal} (hexec : exec i s = withModulus s mk k) :
    s.FailsWith i .modulusInvalid :=
  s.failsWith_of_abort (hexec.trans (withModulus_invalid s hv k))

/-! ## MODSET (R240) -/

variable {a : NReg} (mk : MReg)

theorem execModset_odd (h : (s.nreg a).val % 2 = 1) :
    execModset a mk s =
      finish (s.setM mk (modulusOf s.W (s.nreg a).val (m0invOf s.W (s.nreg a).val))) := by
  rw [execModset, if_neg (by omega), if_neg (by omega)]

theorem execModset_even (h : (s.nreg a).val % 2 = 0) (h0 : (s.nreg a).val ≠ 0) :
    execModset a mk s =
      finish (s.setM mk (modulusOf s.W (s.nreg a).val (s.draw (2 ^ s.W)))).drawn := by
  rw [execModset, if_neg h0, if_pos h]

theorem modulusOf_eq (W v m0inv : Nat) {even : Bool} (h : even = decide (v % 2 = 0)) :
    modulusOf W v m0inv =
      ⟨true, v, nlimbs W (bitlen v), nlimbs W (bitlen v) * W - bitlen v, m0inv, even⟩ := by
  rw [h, modulusOf]

end

/-! ## The obligations -/

/-- Settles O42: `m0invOf` is the negated inverse word of an odd value, and an even value takes a
draw below `2^W`. -/
theorem modulusConstruction : Obligations.ModulusConstruction := by
  refine ⟨encoded_of_findRow rfl, fun s a mk => ⟨fun hodd => ?_, fun heven h0 => ?_, fun h0 => ?_⟩⟩
  · refine ⟨_, Nat.mod_lt _ (Nat.two_pow_pos _), mul_m0invOf hodd, ?_⟩
    rw [exec, execModset_odd s mk hodd, modulusOf_eq (even := false) _ _ _ (by simp [hodd])]
    rfl
  · refine ⟨_, State.draw_lt (s := s) (Nat.two_pow_pos _), ?_⟩
    rw [exec, execModset_even s mk heven h0, modulusOf_eq (even := true) _ _ _ (by simp [heven])]
    rfl
  · exact s.failsWith_of_abort (if_pos h0)

/-- Settles O43: the reduced residue is below `M`, so the quotient fits a word. -/
theorem shiftWordIntoResidue : Obligations.ShiftWordIntoResidue := by
  refine ⟨encoded_of_findRow rfl, fun s d e a mk hinv => ⟨fun hv => ?_, fun hv => ?_⟩⟩
  · have hM : 0 < (s.mreg mk).val := hinv.val_pos hv
    rw [exec, execShiftaddin, withModulus_valid s hv]
    exact finish_setResidue_setW s d e mk _ (Nat.mod_lt _ hM)
      (div_lt_word (Nat.mod_lt _ hM) (hinv.1 a))
  · exact s.failsWith_of_invalid hv (execShiftaddin.eq_def ..)

/-- Settles O44: MOD writes a modular result, DIV is a command of the capped form. -/
theorem remainderAndQuotient : Obligations.RemainderAndQuotient := by
  refine ⟨⟨encoded_of_findRow rfl, fun s d a mk hinv =>
      ⟨fun hv => ?_, fun _ htag => ?_, fun hv => ?_⟩⟩,
    encoded_of_findRow rfl, fun s d a mk cap _ => ?_⟩
  · rw [exec, execMod, withModulus_valid s hv]
    exact finish_setResidue s d mk _ (Nat.mod_lt _ (hinv.val_pos hv))
  · obtain ⟨-, -, htags, -⟩ := hinv
    exact Nat.mod_eq_of_lt (htags a mk htag).2
  · exact s.failsWith_of_invalid hv (execMod.eq_def ..)
  · intro M len
    have hlen : capOr cap ((s.nreg a).ann + 2 - bitlen M) = len := by
      simp only [capOr, len]
      split <;> omega
    have hcapped (hv : (s.mreg mk).valid = true) : exec (.div d a mk cap) s =
        cappedCommand s d len fun c => (s.nreg a).val / M % 2 ^ c := by
      rw [exec, execDiv, withModulus_valid s hv, hlen]
    have hresult hv := exec_cappedCommand s (hcapped hv) rfl (Nat.mod_lt _ (Nat.two_pow_pos _))
    exact ⟨fun hv => (hresult hv).1, fun hv => (hresult hv).2,
      fun hv => s.failsWith_of_invalid hv (execDiv.eq_def ..)⟩

end Sys2Proof.Machine
end
section
/-!
PROOFS. The reduction datapaths (42_modulus_reduction.md R241, R244 to R251; 44_montgomery.md
R304): the Newton iteration, the quotient estimate and its correction, and the loops over the atomic
step.
-/

namespace Sys2Proof.Machine

namespace Datapath

/-! ## Newton iteration (R241) -/

/-- One iteration squares the error `1 - n0*y` mod `2^W`. -/
theorem newton_error_sq (W n0 y : Nat) :
    1 - (n0 : Int) * (y * (2 + (2 ^ W - n0 * y % 2 ^ W)) % 2 ^ W : Nat) ≡
      (1 - (n0 : Int) * y) ^ 2 [ZMOD 2 ^ W] := by
  have hle : n0 * y % 2 ^ W ≤ 2 ^ W := (Nat.mod_lt _ (Nat.two_pow_pos W)).le
  have hneg : (2 : Int) ^ W - (n0 : Int) * y % 2 ^ W ≡ -(n0 * y) [ZMOD 2 ^ W] := by
    simpa using (show (2 : Int) ^ W ≡ 0 [ZMOD 2 ^ W] by simp [Int.ModEq]).sub
      (Int.mod_modEq (n0 * y) (2 ^ W))
  push_cast [Nat.cast_sub hle]
  calc 1 - (n0 : Int) * (y * (2 + (2 ^ W - n0 * y % 2 ^ W)) % 2 ^ W)
      ≡ 1 - (n0 : Int) * (y * (2 + -(n0 * y))) [ZMOD 2 ^ W] :=
        ((Int.mod_modEq _ _).trans ((hneg.add_left 2).mul_left y)).mul_left n0 |>.neg.add_left 1
    _ = (1 - (n0 : Int) * y) ^ 2 := by ring

/-- Each iteration doubles the number of right low bits, so `i` of them reach `W` bits from `k` bits
with `W ≤ k*2^i`. -/
theorem newton_inverse {W n0 : Nat} : ∀ (i y k : Nat), W ≤ k * 2 ^ i → (2 : Int) ^ k ∣ 1 - n0 * y →
    (2 : Int) ^ W ∣ 1 - n0 * newton W n0 i y := by
  intro i
  induction i with
  | zero => exact fun y k hk h => (pow_dvd_pow 2 (by simpa using hk)).trans h
  | succ i ih =>
    intro y k hk h
    have hsq : (2 : Int) ^ (min (k * 2) W) ∣ (1 - n0 * y) ^ 2 :=
      (pow_dvd_pow 2 (min_le_left _ _)).trans (pow_mul (2 : Int) k 2 ▸ pow_dvd_pow_of_dvd h 2)
    have hW : W ≤ min (k * 2) W * 2 ^ i := by
      rcases le_total (k * 2) W with hle | hle
      · rwa [min_eq_left hle, mul_assoc, ← pow_succ']
      · rw [min_eq_right hle]
        exact Nat.le_mul_of_pos_right W (Nat.two_pow_pos i)
    refine ih _ _ hW (((newton_error_sq W n0 y).of_dvd ?_).dvd_iff.mpr hsq)
    exact pow_dvd_pow 2 (min_le_right _ _)

theorem newton_lt {W n0 : Nat} : ∀ (i y : Nat), y < 2 ^ W → newton W n0 i y < 2 ^ W := by
  intro i
  induction i with
  | zero => exact fun _ hy => hy
  | succ i ih => exact fun _ _ => ih _ (Nat.mod_lt _ (Nat.two_pow_pos W))

theorem dvd_one_sub_mod_mul (W v : Nat) (y : Int) :
    (2 : Int) ^ W ∣ 1 - (v % 2 ^ W : Nat) * y ↔ (2 : Int) ^ W ∣ 1 - v * y := by
  have hred : ((v % 2 ^ W : Nat) : Int) ≡ v [ZMOD 2 ^ W] := by
    push_cast
    exact Int.mod_modEq _ _
  exact ((hred.mul_right y).neg.add_left 1).dvd_iff

/-- Three low bits are right at the start, because an odd square is 1 mod 8, and five iterations
make them 96. -/
theorem newton_five {W v : Nat} (h3 : 3 ≤ W) (h96 : W ≤ 96) (hv : v % 2 = 1) :
    (2 : Int) ^ W ∣ 1 - v * newton W (v % 2 ^ W) 5 (v % 2 ^ W) := by
  have hpow : v % 2 ^ W % 2 = v % 2 := Nat.mod_mod_of_dvd v (dvd_pow_self 2 (by omega))
  have hodd : Odd ((v % 2 ^ W : Nat) : Int) := by
    exact_mod_cast Nat.odd_iff.mpr (hpow.trans hv)
  have h8 : (2 : Int) ^ 3 ∣ 1 - (v % 2 ^ W : Nat) * (v % 2 ^ W : Nat) := by
    rw [← dvd_neg, neg_sub, ← pow_two]
    exact Int.eight_dvd_sq_sub_one_of_odd hodd
  have hn := newton_inverse 5 (v % 2 ^ W) 3 (by omega) h8
  exact (dvd_one_sub_mod_mul W v _).mp hn

/-- The negation of an inverse word, as `m0inv` takes it. -/
theorem mul_neg_inverse {W v y : Nat} (hy : y < 2 ^ W) (h : (2 : Int) ^ W ∣ 1 - v * y) :
    (v * ((2 ^ W - y) % 2 ^ W) + 1) % 2 ^ W = 0 := by
  have hnat : 2 ^ W ∣ v * (2 ^ W - y) + 1 := by
    zify [hy.le]
    have hsum : (v : Int) * (2 ^ W - y) + 1 = v * 2 ^ W + (1 - v * y) := by ring
    rw [hsum]
    exact dvd_add (dvd_mul_left _ _) h
  exact ((((Nat.mod_modEq (2 ^ W - y) (2 ^ W)).mul_left v).add_right 1).trans
    (Nat.modEq_zero_iff_dvd.mpr hnat))

end Datapath

/-- Settles O52: `W` is at most 96. -/
theorem newtonGivesTheInverseWord : Obligations.NewtonGivesTheInverseWord := by
  intro wd v hv
  have h3 : 3 ≤ wd.bits := by have := Width.le_bits wd; omega
  have h96 : wd.bits ≤ 96 := by have := Width.bits_le wd; omega
  exact ⟨Nat.mod_lt _ (Nat.two_pow_pos _), Datapath.mul_neg_inverse
    (Datapath.newton_lt 5 _ (Nat.mod_lt _ (Nat.two_pow_pos _))) (Datapath.newton_five h3 h96 hv)⟩

namespace Datapath

/-! ## The quotient estimate (R249) -/

/-- Knuth's bound: the quotient by the top digit `D / S` of a normalised divisor is not below the
true quotient and at most 2 above it. -/
theorem top_digit_quotient_bounds {B S D N : Nat} (hB : 2 ≤ B) (hS : 0 < S) (hnorm : B * S ≤ 2 * D)
    (hN : N / D ≤ B) :
    N / D ≤ min (N / S / (D / S)) B ∧ min (N / S / (D / S)) B ≤ N / D + 2 := by
  set b := D / S
  have hbS : b * S ≤ D := Nat.div_mul_le_self D S
  have hDb : D < (b + 1) * S := Nat.lt_mul_of_div_lt (Nat.lt_succ_self _) hS
  have hSD : S ≤ D := by
    have : 2 * S ≤ B * S := Nat.mul_le_mul_right S hB
    omega
  have hbpos : 0 < b := Nat.div_pos hSD hS
  have hBb : B < 2 * b + 2 := by
    refine Nat.lt_of_mul_lt_mul_right (a := S) ?_
    calc B * S ≤ 2 * D := hnorm
      _ < 2 * ((b + 1) * S) := by omega
      _ = (2 * b + 2) * S := by ring
  rw [Nat.div_div_eq_div_mul, Nat.mul_comm S b]
  refine ⟨le_min (Nat.div_le_div_left hbS (Nat.mul_pos hbpos hS)) hN, ?_⟩
  set r := min (N / (b * S)) B
  have hrB : r ≤ B := min_le_right _ _
  rw [← Nat.sub_le_iff_le_add, Nat.le_div_iff_mul_le (hS.trans_le hSD)]
  calc (r - 2) * D ≤ (r - 2) * ((b + 1) * S) := Nat.mul_le_mul_left _ hDb.le
    _ = ((r - 2) * b + (r - 2)) * S := by ring
    _ ≤ (r * b) * S := by
        refine Nat.mul_le_mul_right S ?_
        rcases Nat.lt_or_ge r 2 with h | h
        · simp [Nat.sub_eq_zero_of_le h.le]
        · have hmul : (r - 2) * b + 2 * b = r * b := by rw [← Nat.add_mul, Nat.sub_add_cancel h]
          omega
    _ = r * (b * S) := Nat.mul_assoc _ _ _
    _ ≤ N := (Nat.mul_le_mul_right _ (min_le_left _ _)).trans (Nat.div_mul_le_self _ _)

/-- The loop appends one bit per iteration to the quotient, in the domain or not. -/
theorem divLoop_fst_lt (width lo dv : Nat) {n : Nat} :
    ∀ i q r, q < n → (divLoop width lo dv i (q, r)).1 < n * 2 ^ i := by
  intro i
  induction i generalizing n with
  | zero => intro q r hq; simpa [divLoop] using hq
  | succ i ih =>
    intro q r hq
    rw [divLoop, Nat.pow_succ', ← Nat.mul_assoc]
    exact ih _ _ (by omega)

theorem div_fst_lt (W hi lo dv : Nat) : (div W hi lo dv).1 < 2 ^ W := by
  simpa only [div, Nat.one_mul] using divLoop_fst_lt (W + 1) lo dv W 0 hi Nat.one_pos

/-- The inner selection of the estimate: one less, but not below 0. -/
theorem ctIfElse_pred {W r : Nat} (hW : 0 < W) (hr : r < 2 ^ W) :
    ctIfElse W (ctEq r 0) 0 (r - 1) = r - 1 := by
  rw [ctEq_eq]
  split
  · next h => rw [h, ctIfElse_one hW (Nat.two_pow_pos W) (by omega)]
  · exact ctIfElse_zero ..

/-- The two selections of the estimate: one below the quotient by the top digit, capped at `2^W`. -/
theorem estimate_eq {W a b rawQ : Nat} (hW : 0 < W) (hbpos : 0 < b) (hb : b < 2 ^ W)
    (ha : a / 2 ^ W ≤ b) (hraw : (div W (a / 2 ^ W) (a % 2 ^ W) b).1 = rawQ) :
    ctIfElse W (ctEq (a / 2 ^ W) b) (2 ^ W - 1) (ctIfElse W (ctEq rawQ 0) 0 (rawQ - 1)) =
      min (a / b) (2 ^ W) - 1 := by
  have hB : 0 < 2 ^ W := Nat.two_pow_pos W
  have hrawlt : rawQ < 2 ^ W := hraw ▸ div_fst_lt W _ _ b
  rw [ctIfElse_pred hW hrawlt, ctEq_eq]
  rcases ha.lt_or_eq with hlt | heq
  · rw [div_eq hlt (Nat.mod_lt _ hB) hb, Nat.div_add_mod'] at hraw
    obtain rfl : a / b = rawQ := hraw
    rw [if_neg hlt.ne, ctIfElse_zero, min_eq_left hrawlt.le]
  · have hcap : 2 ^ W ≤ a / b := by
      rw [Nat.le_div_iff_mul_le hbpos, Nat.mul_comm, ← heq]
      exact Nat.div_mul_le_self a _
    rw [if_pos heq, min_eq_right hcap]
    exact ctIfElse_one hW (by omega) (by omega)

/-! ## The correction (R250) -/

/-- The full remainder `T - M*q` of the multiply-subtract: its top limb and its low limbs. -/
theorem mulSubVVW_recompose {W k T M q : Nat} :
    (mulSubVVW W k (T % 2 ^ (k * W)) M q).1 + M * q + T / 2 ^ (k * W) * 2 ^ (k * W) =
      T + (mulSubVVW W k (T % 2 ^ (k * W)) M q).2 * 2 ^ (k * W) := by
  have hid := mulSubVVW_spec W k _ M q (Nat.mod_lt T (Nat.two_pow_pos (k * W)))
  have hT : T / 2 ^ (k * W) * 2 ^ (k * W) + T % 2 ^ (k * W) = T := Nat.div_add_mod' T _
  zify at hT ⊢
  push_cast at hid
  linarith

theorem two_pow_limbs {W k : Nat} (hk : 0 < k) : 2 ^ (k * W) = 2 ^ W * 2 ^ ((k - 1) * W) := by
  rw [← Nat.pow_add, Nat.add_comm W, ← Nat.succ_mul, Nat.succ_eq_add_one, Nat.sub_add_cancel hk]

/-- The top limb of `z` is what `z*2^W + x` has above the modulus limbs. -/
theorem limbOf_top {W nM z x : Nat} (hnM : 0 < nM) (hz : z < 2 ^ (nM * W)) (hx : x < 2 ^ W) :
    limbOf W z (nM - 1) = (z * 2 ^ W + x) / 2 ^ (nM * W) := by
  have hsplit := two_pow_limbs (W := W) hnM
  rw [limbOf, Nat.mod_eq_of_lt (Nat.div_lt_of_lt_mul (by rwa [Nat.mul_comm, ← hsplit])), hsplit,
    ← Nat.div_div_eq_div_mul, Nat.mul_comm z, Nat.mul_add_div (Nat.two_pow_pos W),
    Nat.div_eq_of_lt hx, Nat.add_zero]

/-- A low part below `P` and a multiple of `P` are the digits of their sum. -/
theorem digits_unique {P u v A C : Nat} (hu : u < P) (h : u + A * P = v + C * P) :
    A = v / P + C ∧ u = v % P := by
  have hP : 0 < P := by omega
  constructor
  · simpa [Nat.add_mul_div_right _ _ hP, Nat.div_eq_of_lt hu] using congrArg (· / P) h
  · simpa [Nat.mod_eq_of_lt hu] using congrArg (· % P) h

theorem addVV_fst_lt (W k x y : Nat) : (addVV W k x y).1 < 2 ^ (k * W) :=
  Nat.mod_lt _ (Nat.two_pow_pos _)

theorem addVV_sub {W k r y : Nat} (hr : r < 2 ^ (k * W)) (hy : y ≤ 2 ^ (k * W)) :
    (addVV W k (r + 2 ^ (k * W) - y) y).1 = r := by
  rw [addVV, Nat.sub_add_cancel (by omega), Nat.add_mod_right, Nat.mod_eq_of_lt hr]

theorem subVV_fst_lt (W k x y : Nat) : (subVV W k x y).1 < 2 ^ (k * W) := by
  simpa [subVV] using toNat_emod_lt ((x : Int) - y) (Nat.two_pow_pos (k * W))

theorem subVV_add_mod {W k r y : Nat} (hr : r < 2 ^ (k * W)) :
    (subVV W k ((r + y) % 2 ^ (k * W)) y).1 = r := by
  have hr' : (r : Int) < 2 ^ (k * W) := by exact_mod_cast hr
  have hmod : ((((r + y) % 2 ^ (k * W) : Nat) : Int) - y) % 2 ^ (k * W) = r := by
    push_cast
    rw [Int.emod_sub_emod, add_sub_cancel_right, Int.emod_eq_of_lt (by omega) hr']
  rw [subVV]
  simp only [hmod, Int.toNat_natCast]

/-- The selections of the correction, by the sign of the full remainder `T - M*q` and by its size
against `M`: `hi` and `c` are its top limb and borrow, `z` its low limbs. -/
theorem correction_selects {W k M T q z hi c under above : Nat} (hW : 0 < W) (hM : 0 < M)
    (hMP : M < 2 ^ (k * W)) (hz : z < 2 ^ (k * W)) (hle : q ≤ T / M + 1) (hge : T / M ≤ q + 1)
    (hrec : z + M * q + hi * 2 ^ (k * W) = T + c * 2 ^ (k * W)) (hunder : ctGt c hi = under)
    (habove : (1 - under) * (1 - ctGt M ((hi - c) * 2 ^ (k * W) + z)) = above) :
    (sel W under (addVV W k z M).1 (sel W above (subVV W k z M).1 z k) k, q - under + above) =
      (T % M, T / M) := by
  have hr : T % M < M := Nat.mod_lt _ hM
  have hT : M * (T / M) + T % M = T := Nat.div_add_mod T M
  rcases (by omega : q = T / M + 1 ∨ q = T / M ∨ T / M = q + 1) with hq | hq | hq
  · obtain ⟨hc, hlow⟩ := digits_unique (A := hi + 1) (v := T % M + 2 ^ (k * W) - M) (C := c) hz (by
      rw [hq, Nat.mul_succ] at hrec
      rw [Nat.succ_mul]
      omega)
    rw [Nat.div_eq_of_lt (by omega)] at hc
    rw [Nat.mod_eq_of_lt (by omega)] at hlow
    obtain rfl : under = 1 := by rw [← hunder, ctGt_eq, if_pos (by omega)]
    obtain rfl : above = 0 := by rw [← habove, Nat.sub_self, Nat.zero_mul]
    rw [sel_zero, sel_one hW (addVV_fst_lt W k z M) hz, hlow, addVV_sub (hr.trans hMP) hMP.le, hq]
    rfl
  · obtain ⟨hc, hlow⟩ := digits_unique (A := hi) (v := T % M) (C := c) hz (by
      rw [hq] at hrec
      omega)
    rw [Nat.div_eq_of_lt (by omega), Nat.zero_add] at hc
    rw [Nat.mod_eq_of_lt (by omega)] at hlow
    obtain rfl : under = 0 := by rw [← hunder, ctGt_eq, if_neg hc.ge.not_gt]
    obtain rfl : above = 0 := by simp [← habove, ctGt_eq, hc, hlow, hr]
    rw [sel_zero, sel_zero, hlow, hq]
    rfl
  · obtain ⟨hc, hlow⟩ := digits_unique (A := hi) (v := T % M + M) (C := c) hz (by
      rw [hq, Nat.mul_succ] at hT
      omega)
    have hrem : (hi - c) * 2 ^ (k * W) + z = T % M + M := by
      rw [hc, Nat.add_sub_cancel, hlow, Nat.div_add_mod']
    obtain rfl : under = 0 := by
      rw [← hunder, ctGt_eq, if_neg (hc ▸ (Nat.le_add_left _ _).not_gt)]
    obtain rfl : above = 1 := by rw [← habove, hrem, ctGt_eq, if_neg (by omega)]
    rw [sel_zero, sel_one hW (subVV_fst_lt W k z M) hz, hlow, subVV_add_mod (hr.trans hMP), hq]
    rfl

/-- The new `z` and `q` for an estimate that is off by at most one. -/
theorem stepCorrect_eq {W nM M z x q : Nat} (hW : 0 < W) (hnM : 0 < nM) (hM : M < 2 ^ (nM * W))
    (hz : z < M) (hx : x < 2 ^ W) (hle : q ≤ (z * 2 ^ W + x) / M + 1)
    (hge : (z * 2 ^ W + x) / M ≤ q + 1) :
    stepCorrect W nM M z x q = ((z * 2 ^ W + x) % M, (z * 2 ^ W + x) / M) := by
  have hlow := mulSubVVW_vector_lt W nM ((z * 2 ^ W + x) % 2 ^ (nM * W)) M q
  rw [stepCorrect, limbOf_top hnM (hz.trans hM) hx]
  exact correction_selects hW (by omega) hM hlow hle hge mulSubVVW_recompose rfl rfl

/-! ## The atomic step (R244, R249, R251) -/

theorem lt_two_pow_nlimbs_bitlen {W : Nat} (hW : 0 < W) (M : Nat) :
    M < 2 ^ (nlimbs W (bitlen M) * W) :=
  (bitlen_le_iff M _).mp (le_nlimbs_mul hW _)

theorem bitlen_pos {M : Nat} (hM : 0 < M) : 0 < bitlen M :=
  Nat.pos_of_ne_zero ((bitlen_eq_zero_iff M).not.mpr hM.ne')

theorem nlimbs_bitlen_pos {W M : Nat} (hW : 0 < W) (hM : 0 < M) : 0 < nlimbs W (bitlen M) := by
  have hpos := bitlen_pos hM
  have hle := le_nlimbs_mul hW (bitlen M)
  exact Nat.pos_of_mul_pos_right (hpos.trans_le hle)

/-- The top limb of a modulus is not 0. -/
theorem two_pow_pred_nlimbs_le {W M : Nat} (hW : 0 < W) (hM : 0 < M) :
    2 ^ ((nlimbs W (bitlen M) - 1) * W) ≤ M := by
  have hlead := leading_lt (a := bitlen M) hW
  refine (Nat.pow_le_pow_right (by decide) ?_).trans (two_pow_bitlen_pred_le hM.ne')
  rw [Nat.sub_mul, Nat.one_mul]
  omega

/-- A shift by the leading zeros puts the top bit of `M` at the top of `n` bits. -/
theorem shift_leading_bounds {M n : Nat} (hM : 0 < M) (hn : bitlen M ≤ n) :
    2 ^ n ≤ 2 * (M * 2 ^ (n - bitlen M)) ∧ M * 2 ^ (n - bitlen M) < 2 ^ n := by
  have hpos := bitlen_pos hM
  constructor
  · calc 2 ^ n = 2 * (2 ^ (bitlen M - 1) * 2 ^ (n - bitlen M)) := by
          rw [← Nat.pow_add, ← Nat.pow_succ']
          congr 1
          omega
      _ ≤ 2 * (M * 2 ^ (n - bitlen M)) :=
          Nat.mul_le_mul_left _ (Nat.mul_le_mul_right _ (two_pow_bitlen_pred_le hM.ne'))
  · calc M * 2 ^ (n - bitlen M) < 2 ^ bitlen M * 2 ^ (n - bitlen M) :=
          Nat.mul_lt_mul_of_pos_right (lt_two_pow_bitlen M) (Nat.two_pow_pos _)
      _ = 2 ^ n := by rw [← Nat.pow_add, Nat.add_sub_cancel' hn]

/-- The estimate is off by at most one from the true quotient. -/
theorem stepEstimate_bounds {W nM t M z x : Nat} (hW : 0 < W) (hnM : 0 < nM) (hz : z < M)
    (hx : x < 2 ^ W) (hnorm : 2 ^ (nM * W) ≤ 2 * (M * 2 ^ t)) (hfit : M * 2 ^ t < 2 ^ (nM * W)) :
    stepEstimate W nM t M z x ≤ (z * 2 ^ W + x) / M + 1 ∧
      (z * 2 ^ W + x) / M ≤ stepEstimate W nM t M z x + 1 := by
  have hB : 2 ≤ 2 ^ W := Nat.one_lt_two_pow hW.ne'
  have hS : 0 < 2 ^ ((nM - 1) * W) := Nat.two_pow_pos _
  rw [two_pow_limbs hnM] at hnorm hfit
  have hSD : 2 ^ ((nM - 1) * W) ≤ M * 2 ^ t := by
    have := Nat.mul_le_mul_right (2 ^ ((nM - 1) * W)) hB
    omega
  have hquot : (z * 2 ^ W + x) * 2 ^ t / (M * 2 ^ t) = (z * 2 ^ W + x) / M :=
    Nat.mul_div_mul_right _ _ (Nat.two_pow_pos t)
  have hword : (z * 2 ^ W + x) * 2 ^ t / (M * 2 ^ t) < 2 ^ W := hquot ▸ div_lt_word hz hx
  have htop : (z * 2 ^ W + x) * 2 ^ t / 2 ^ ((nM - 1) * W) / 2 ^ W ≤
      M * 2 ^ t / 2 ^ ((nM - 1) * W) := by
    rw [Nat.div_right_comm]
    exact Nat.div_le_div_right (Nat.div_le_of_le_mul
      ((Nat.div_lt_iff_lt_mul (hS.trans_le hSD)).mp hword).le)
  have hest : stepEstimate W nM t M z x = _ :=
    estimate_eq hW (Nat.div_pos hSD hS) ((Nat.div_lt_iff_lt_mul hS).mpr hfit) htop rfl
  obtain ⟨hge, hle⟩ := top_digit_quotient_bounds hB hS hnorm hword.le
  rw [hest, ← hquot]
  exact ⟨Nat.sub_le_sub_right hle 1, hge.trans (Nat.sub_le_iff_le_add.mp le_rfl)⟩

/-- The atomic step on a residue (R244). -/
theorem shiftAddIn_eq {W M z x : Nat} (hW : 0 < W) (hz : z < M) (hx : x < 2 ^ W) :
    shiftAddIn W (nlimbs W (bitlen M)) (nlimbs W (bitlen M) * W - bitlen M) M z x =
      ((z * 2 ^ W + x) % M, (z * 2 ^ W + x) / M) := by
  have hM : 0 < M := by omega
  have hfit := lt_two_pow_nlimbs_bitlen hW M
  have hpos := nlimbs_bitlen_pos hW hM
  rw [shiftAddIn]
  split
  · next h1 =>
    rw [h1, Nat.one_mul] at hfit
    rw [div_eq hz hx hfit]
  · obtain ⟨hnorm, hlt⟩ := shift_leading_bounds hM (le_nlimbs_mul hW (bitlen M))
    obtain ⟨hle, hge⟩ := stepEstimate_bounds hW hpos hz hx hnorm hlt
    exact stepCorrect_eq hW hpos hfit hz hx hle hge

/-! ## The loops (R246, R248, R304) -/

/-- The loop divides the residue so far, followed by the `r` low limbs of `X`, and appends the
quotient words to those it has. -/
theorem reduceLoop_eq {W M : Nat} (hW : 0 < W) (X : Nat) : ∀ r z q, z < M →
    reduceLoop W (nlimbs W (bitlen M)) (nlimbs W (bitlen M) * W - bitlen M) M X r (z, q) =
      ((z * 2 ^ (r * W) + X % 2 ^ (r * W)) % M,
        q * 2 ^ (r * W) + (z * 2 ^ (r * W) + X % 2 ^ (r * W)) / M) := by
  intro r
  induction r with
  | zero => intro z q hz; simp [reduceLoop, Nat.mod_one, Nat.div_eq_of_lt hz, Nat.mod_eq_of_lt hz]
  | succ r ih =>
    intro z q hz
    have hM : 0 < M := by omega
    set T := z * 2 ^ W + limbOf W X r with hT
    have hlow : X % 2 ^ ((r + 1) * W) = X % 2 ^ (r * W) + 2 ^ (r * W) * limbOf W X r := by
      rw [limbOf, Nat.succ_mul, Nat.pow_add, Nat.mod_mul]
    have hnum : z * 2 ^ ((r + 1) * W) + X % 2 ^ ((r + 1) * W) =
        M * (T / M * 2 ^ (r * W)) + (T % M * 2 ^ (r * W) + X % 2 ^ (r * W)) := by
      calc z * 2 ^ ((r + 1) * W) + X % 2 ^ ((r + 1) * W)
          = T * 2 ^ (r * W) + X % 2 ^ (r * W) := by
            rw [hlow, hT, Nat.succ_mul, Nat.pow_add]
            ring
        _ = (M * (T / M) + T % M) * 2 ^ (r * W) + X % 2 ^ (r * W) := by rw [Nat.div_add_mod]
        _ = _ := by ring
    rw [reduceLoop, shiftAddIn_eq hW hz (limbOf_lt _ _ _), ih _ _ (Nat.mod_lt _ hM), hnum,
      Nat.mul_add_div hM, Nat.mul_add_mod, Nat.succ_mul, Nat.pow_add, ← hT]
    ring_nf

theorem divMod_eq {W M ann X : Nat} (hW : 0 < W) (hM : 0 < M) (hX : X < 2 ^ ann) :
    divMod W (nlimbs W (bitlen M)) (nlimbs W (bitlen M) * W - bitlen M) M ann X =
      (X % M, X / M) := by
  rw [divMod]
  set rest := nlimbs W ann - min (nlimbs W ann) (nlimbs W (bitlen M) - 1)
  have htop : X / 2 ^ (rest * W) < M := by
    refine (Nat.div_lt_of_lt_mul ?_).trans_le (two_pow_pred_nlimbs_le hW hM)
    rw [← Nat.pow_add, ← Nat.add_mul]
    refine hX.trans_le (Nat.pow_le_pow_right (by decide) ((le_nlimbs_mul hW ann).trans ?_))
    exact Nat.mul_le_mul_right W (by omega)
  rw [reduceLoop_eq hW X rest _ _ htop, Nat.div_add_mod', Nat.zero_mul, Nat.zero_add]

theorem shiftZeros_eq {W M : Nat} (hW : 0 < W) : ∀ i x, x < M →
    shiftZeros W (nlimbs W (bitlen M)) (nlimbs W (bitlen M) * W - bitlen M) M i x =
      x * 2 ^ (W * i) % M := by
  intro i
  induction i with
  | zero => intro x hx; simp [shiftZeros, Nat.mod_eq_of_lt hx]
  | succ i ih =>
    intro x hx
    rw [shiftZeros, shiftAddIn_eq hW hx (Nat.two_pow_pos W), Nat.add_zero,
      ih _ (Nat.mod_lt _ (by omega)), Nat.mod_mul_mod, Nat.mul_assoc, ← Nat.pow_add, Nat.mul_succ,
      Nat.add_comm W]

end Datapath

/-- Settles O53: one limb is divided at once; with more, the estimate is off by at most one, and the
correction mends it. -/
theorem reductionStepMeetsItsContract : Obligations.ReductionStepMeetsItsContract :=
  fun wd _ _ _ _ hz hx => Datapath.shiftAddIn_eq (Width.bits_pos wd) hz hx

/-- Settles O54: each loop keeps the residue of the limbs read so far, and the injected limbs are
below `M`. -/
theorem reductionLoopsReduce : Obligations.ReductionLoopsReduce :=
  ⟨fun wd _ _ _ hM hX => Datapath.divMod_eq (Width.bits_pos wd) hM hX,
    fun wd _ x hx => Datapath.shiftZeros_eq (Width.bits_pos wd) _ x hx⟩

end Sys2Proof.Machine
end

section
/-!
PROOFS. Modular addition, subtraction, negation and multiplication (43_modular_ops.md R281 to R288): the
next state of each command, and the datapaths on reduced operands.
-/

namespace Sys2Proof.Machine

/-! ## The commands (R281 to R284) -/

/-- The least non-negative remainder of a difference, without integers (R282). -/
theorem toNat_sub_emod {M y : Nat} (x : Nat) (hy : y ≤ M) :
    (((x : Int) - (y : Int)) % (M : Int)).toNat = (x + M - y) % M := by
  have hshift : ((x : Int) - y) % M = ((x + M - y : Nat) : Int) % M := by
    rw [Nat.cast_sub (by omega), Nat.cast_add, add_sub_right_comm, Int.add_emod_right]
  rw [hshift, ← Int.natCast_emod, Int.toNat_natCast]

/-- A command that writes one modular result `r` ends with it when its modulus is valid, and with
MODULUS_INVALID otherwise (R242). -/
theorem exec_residue (s : State) {i : Instr} {d : NReg} {mk : MReg} {f : ModReg → Nat} {r : Nat}
    (hexec : exec i s = withModulus s mk fun md => finish (s.setResidue d mk md (f md)))
    (hv : (s.mreg mk).valid = true) (hf : f (s.mreg mk) = r) (hr : r < (s.mreg mk).val) :
    exec i s = .next
      { s with
        n := s.n.set d.val ⟨bitlen (s.mreg mk).val, r, some mk⟩
        busy := false, done := true, cmdcnt := s.cmdcnt + 1 } := by
  rw [hexec, withModulus_valid s hv, hf]
  exact finish_setResidue s d mk _ hr

/-- Settles O45: each result is a remainder mod `M`, and a reduced operand is at most `M`, so the
differences need no integers. -/
theorem modularArithmetic : Obligations.ModularArithmetic := by
  refine ⟨encoded_of_findRow rfl, encoded_of_findRow rfl, encoded_of_findRow rfl,
    encoded_of_findRow rfl, fun s d a b mk hinv => ⟨fun hv => ?_, fun hv => ?_⟩⟩
  · have hlt (v : Nat) : v % (s.mreg mk).val < (s.mreg mk).val := Nat.mod_lt _ (hinv.val_pos hv)
    have hneg := toNat_sub_emod 0 (hlt (s.nreg a).val).le
    rw [Nat.zero_add] at hneg
    exact ⟨exec_residue s (execModadd.eq_def ..) hv rfl (hlt _),
      exec_residue s (execModsub.eq_def ..) hv (toNat_sub_emod _ (hlt _).le) (hlt _),
      exec_residue s (execModneg.eq_def ..) hv hneg (hlt _),
      exec_residue s (execModmul.eq_def ..) hv rfl (hlt _)⟩
  · exact ⟨s.failsWith_of_invalid hv (execModadd.eq_def ..),
      s.failsWith_of_invalid hv (execModsub.eq_def ..),
      s.failsWith_of_invalid hv (execModneg.eq_def ..),
      s.failsWith_of_invalid hv (execModmul.eq_def ..)⟩

/-! ## The datapaths (R285 to R288) -/

namespace Datapath

/-- A value below `2*M` is reduced by at most one subtraction. -/
theorem mod_eq_sub_of_lt_two_mul {M v : Nat} (hle : M ≤ v) (hlt : v < 2 * M) : v % M = v - M := by
  rw [Nat.mod_eq_sub_mod hle, Nat.mod_eq_of_lt (by omega)]

/-- The sum of two vectors and its carry, by cases (40_limb_primitives.md R176). -/
theorem addVV_eq {W k x y : Nat} (hx : x < 2 ^ (k * W)) (hy : y < 2 ^ (k * W)) :
    addVV W k x y =
      if x + y < 2 ^ (k * W) then (x + y, 0) else (x + y - 2 ^ (k * W), 1) := by
  rw [addVV]
  split
  · next h => rw [Nat.mod_eq_of_lt h, Nat.div_eq_of_lt h]
  · next h =>
    rw [mod_eq_sub_of_lt_two_mul (by omega) (by omega),
      Nat.div_eq_of_lt_le (k := 1) (by omega) (by omega)]

section
variable {W nM M x y : Nat} (hW : 0 < W) (hfit : M < 2 ^ (nM * W)) (hx : x < M) (hy : y < M)
include hW hfit hx hy

/-- The carry of the sum and the borrow of the subtraction agree exactly when `M ≤ x + y`, and then the
difference is the residue (R285; 90_conflicts.md C2). -/
theorem modAdd_eq : modAdd W nM M x y = (x + y) % M := by
  rw [modAdd, subVV_spec (addVV_fst_lt W nM x y) hfit, addVV_eq (hx.trans hfit) (hy.trans hfit)]
  split
  · next hcarry =>
    split
    · next hlt => exact (sel_zero ..).trans (Nat.mod_eq_of_lt hlt).symm
    · next hge =>
      refine (sel_one hW (by omega) hcarry).trans ?_
      rw [mod_eq_sub_of_lt_two_mul (by omega) (by omega)]
  · next hcarry =>
    have hborrow : x + y - 2 ^ (nM * W) < M := by omega
    rw [if_pos hborrow]
    refine (sel_one hW (by omega) (by omega)).trans ?_
    rw [mod_eq_sub_of_lt_two_mul (by omega) (by omega)]
    omega

/-- A borrow is mended by adding `M`, whose carry drops out (R286). -/
theorem modSub_eq : modSub W nM M x y = (x + M - y) % M := by
  rw [modSub, subVV_spec (hx.trans hfit) (hy.trans hfit)]
  split
  · next hlt =>
    have hmend : (addVV W nM (x + 2 ^ (nM * W) - y) M).1 = x + M - y := by
      rw [show x + 2 ^ (nM * W) - y = x + M - y + 2 ^ (nM * W) - M by omega]
      exact addVV_sub (by omega) hfit.le
    rw [hmend, sel_one hW (by omega) (by omega), Nat.mod_eq_of_lt (by omega)]
  · next hge =>
    rw [sel_zero, mod_eq_sub_of_lt_two_mul (by omega) (by omega)]
    omega

end

/-- The low `i` limbs of `y` give their part of the product (41_nat_arithmetic.md R219). -/
theorem schoolbook_eq (W x y : Nat) : ∀ i, schoolbook W x y i = x * (y % 2 ^ (i * W))
  | 0 => by simp [schoolbook, Nat.mod_one]
  | i + 1 => by
    rw [schoolbook, schoolbook_eq W x y i, limbOf, Nat.succ_mul, Nat.pow_add, Nat.mod_mul]
    ring

/-- The product of two residues fits `2*nM` limbs, which the Mod loop reduces (R288). -/
theorem modMul_eq {W M x y : Nat} (hW : 0 < W) (hx : x < M) (hy : y < M) :
    modMul W (nlimbs W (bitlen M)) (nlimbs W (bitlen M) * W - bitlen M) M x y = x * y % M := by
  have hfit := lt_two_pow_nlimbs_bitlen hW M
  have hprod : x * y < 2 ^ (2 * nlimbs W (bitlen M) * W) := by
    rw [Nat.mul_assoc, Nat.two_mul, Nat.pow_add]
    exact Nat.mul_lt_mul'' (hx.trans hfit) (hy.trans hfit)
  rw [modMul, schoolbook_eq, Nat.mod_eq_of_lt (hy.trans hfit), divMod_eq hW (by omega) hprod]

end Datapath

/-- Settles O55: the carry and borrow selections reduce by one subtraction or one addition of `M`, the
schoolbook product goes through the Mod loop, and negation is the subtraction from 0. -/
theorem modularDatapathsComputeTheResults : Obligations.ModularDatapathsComputeTheResults := by
  intro wd M x y hx hy
  have hW := Width.bits_pos wd
  have hfit := Datapath.lt_two_pow_nlimbs_bitlen hW M
  have hneg := Datapath.modSub_eq hW hfit (Nat.zero_lt_of_lt hx) hx
  rw [Nat.zero_add] at hneg
  exact ⟨Datapath.modAdd_eq hW hfit hx hy, Datapath.modSub_eq hW hfit hx hy, hneg,
    Datapath.modMul_eq hW hx hy⟩

end Sys2Proof.Machine
end

section
/-!
PROOFS. The Montgomery product and form (44_montgomery.md R300 to R303): the next state of each
command, the accumulator of the CIOS loop, and its final select.
-/

namespace Sys2Proof.Machine

/-! ## The commands (R301, R303) -/

/-- The radix of a modulus register is prime to an odd modulus. -/
theorem State.Inv.radix_coprime {s : State} (h : s.Inv) {mk : MReg}
    (hv : (s.mreg mk).valid = true) (ho : (s.mreg mk).even = false) :
    Nat.gcd ((s.mreg mk).radix s.W) (s.mreg mk).val = 1 := by
  obtain ⟨-, -, -, hmod, -⟩ := h
  obtain ⟨-, -, -, -, heven, -⟩ := (hmod mk).2 hv
  have hodd : (s.mreg mk).val % 2 = 1 := by simpa [ho] using heven
  exact (Nat.coprime_two_left.mpr (Nat.odd_iff.mpr hodd)).pow_left _

/-- Settles O46: the radix has an inverse mod an odd modulus, and each result is a remainder. -/
theorem montgomeryProductAndForm : Obligations.MontgomeryProductAndForm := by
  refine ⟨encoded_of_findRow rfl, encoded_of_findRow rfl, fun s d a b mk hinv => ?_⟩
  have hmontmul : exec (.montmul d a b mk) s = withOddModulus s mk _ := execMontmul.eq_def ..
  refine ⟨fun hv hodd => ?_, fun hv heven => ?_, fun hv => ?_, fun hv => ⟨?_, ?_⟩⟩
  · have hM : 0 < (s.mreg mk).val := hinv.val_pos hv
    refine ⟨inv ((s.mreg mk).radix s.W) (s.mreg mk).val, inv_lt _ hM,
      mul_inv_mod hM (hinv.radix_coprime hv hodd), ?_⟩
    rw [hmontmul, withOddModulus_odd s hv hodd]
    exact finish_setResidue s d mk _ (Nat.mod_lt _ hM)
  · exact s.failsWith_of_abort (hmontmul.trans (withOddModulus_even s hv heven _))
  · exact exec_residue s (execMontrep.eq_def ..) hv rfl (Nat.mod_lt _ (hinv.val_pos hv))
  · exact s.failsWith_of_abort (hmontmul.trans (withOddModulus_invalid s hv _))
  · exact s.failsWith_of_invalid hv (execMontrep.eq_def ..)

/-! ## The CIOS loop (R300) -/

namespace Datapath

/-- The low `i + 1` limbs of a value are its low `i` limbs and limb `i`. -/
theorem mod_two_pow_succ_limbs (W v i : Nat) :
    v % 2 ^ ((i + 1) * W) = v % 2 ^ (i * W) + 2 ^ (i * W) * limbOf W v i := by
  rw [limbOf, Nat.succ_mul, Nat.pow_add, Nat.mod_mul]

section
variable {W M m0 : Nat} (hm0 : (M * m0 + 1) % 2 ^ W = 0)
include hm0

/-- The multiple of `M` that the factor `m0` chooses makes the low limb 0. -/
theorem two_pow_dvd_add_factor_mul {t v : Nat} (hv : v ≡ t [MOD 2 ^ W]) :
    2 ^ W ∣ t + v * m0 % 2 ^ W * M := by
  refine Nat.modEq_zero_iff_dvd.mp ?_
  calc t + v * m0 % 2 ^ W * M
      ≡ t + t * m0 * M [MOD 2 ^ W] :=
        (((Nat.mod_modEq _ _).trans (hv.mul_right m0)).mul_right M).add_left t
    _ = t * (M * m0 + 1) := by ring
    _ ≡ 0 [MOD 2 ^ W] := (show M * m0 + 1 ≡ 0 [MOD 2 ^ W] from hm0).mul_left t

/-- One step adds a limb of `a` times `b` and a word times `M`, and divides by `2^W` without a
remainder. -/
theorem montLoop_succ_mul (a b i : Nat) :
    ∃ f, f < 2 ^ W ∧
      montLoop W M m0 a b (i + 1) * 2 ^ W = montLoop W M m0 a b i + limbOf W a i * b + f * M :=
  ⟨_, Nat.mod_lt _ (Nat.two_pow_pos W), Nat.div_mul_cancel (two_pow_dvd_add_factor_mul hm0
    ((Nat.mod_modEq _ _).add ((Nat.mod_modEq b _).mul_left _)))⟩

/-- A factor and a limb are below `2^W`, so the division brings the sum back below `M + b`. -/
theorem montLoop_lt (hM : 0 < M) (a b : Nat) : ∀ i, montLoop W M m0 a b i < M + b
  | 0 => by rw [montLoop]; omega
  | i + 1 => by
    obtain ⟨f, hf, hstep⟩ := montLoop_succ_mul hm0 a b i
    have hu := montLoop_lt hM a b i
    refine Nat.lt_of_mul_lt_mul_right (a := 2 ^ W) ?_
    calc montLoop W M m0 a b (i + 1) * 2 ^ W
        < (limbOf W a i + 1) * b + (f + 1) * M := by rw [hstep]; linarith
      _ ≤ 2 ^ W * b + 2 ^ W * M :=
          Nat.add_le_add (Nat.mul_le_mul_right b (limbOf_lt W a i)) (Nat.mul_le_mul_right M hf)
      _ = (M + b) * 2 ^ W := by ring

/-- The accumulator, times the limbs read so far, is their product. -/
theorem montLoop_mul_modEq (a b : Nat) : ∀ i,
    montLoop W M m0 a b i * 2 ^ (i * W) ≡ a % 2 ^ (i * W) * b [MOD M]
  | 0 => by simp [montLoop, Nat.mod_one, Nat.ModEq]
  | i + 1 => by
    obtain ⟨f, -, hstep⟩ := montLoop_succ_mul hm0 a b i
    calc montLoop W M m0 a b (i + 1) * 2 ^ ((i + 1) * W)
        = montLoop W M m0 a b (i + 1) * 2 ^ W * 2 ^ (i * W) := by
          rw [Nat.succ_mul, Nat.pow_add]
          ring
      _ = montLoop W M m0 a b i * 2 ^ (i * W) + 2 ^ (i * W) * limbOf W a i * b +
            M * (f * 2 ^ (i * W)) := by
          rw [hstep]
          ring
      _ ≡ montLoop W M m0 a b i * 2 ^ (i * W) + 2 ^ (i * W) * limbOf W a i * b [MOD M] := by
          simp [Nat.ModEq]
      _ ≡ a % 2 ^ (i * W) * b + 2 ^ (i * W) * limbOf W a i * b [MOD M] :=
          (montLoop_mul_modEq a b i).add_right _
      _ = a % 2 ^ ((i + 1) * W) * b := by rw [mod_two_pow_succ_limbs, Nat.add_mul]

end

/-! ## The final select (R302) -/

/-- The carry and the borrow differ exactly when `u` is below `M` (90_conflicts.md C6). -/
theorem montSelect_eq {W nM M u : Nat} (hW : 0 < W) (hfit : M < 2 ^ (nM * W)) (hu : u < 2 * M) :
    montSelect W nM M u = u % M := by
  have hlow : u % 2 ^ (nM * W) < 2 ^ (nM * W) := Nat.mod_lt _ (Nat.two_pow_pos _)
  rw [montSelect]
  simp only [subVV_spec hlow hfit]
  rcases Nat.lt_or_ge u (2 ^ (nM * W)) with hcarry | hcarry
  · rw [Nat.div_eq_of_lt hcarry, Nat.mod_eq_of_lt hcarry, Nat.zero_xor]
    split
    · next hlt => exact (sel_one hW hcarry (by omega)).trans (Nat.mod_eq_of_lt hlt).symm
    · next hge => exact (sel_zero ..).trans (mod_eq_sub_of_lt_two_mul (by omega) hu).symm
  · have hborrow : u - 2 ^ (nM * W) < M := by omega
    rw [Nat.div_eq_of_lt_le (k := 1) (by omega) (by omega),
      mod_eq_sub_of_lt_two_mul hcarry (by omega), if_pos hborrow, Nat.xor_self,
      mod_eq_sub_of_lt_two_mul (by omega) hu]
    refine (sel_zero ..).trans ?_
    omega

/-! ## The product (R300, R302) -/

section
variable {W nM M m0 a b : Nat} (hW : 0 < W) (hfit : M < 2 ^ (nM * W))
  (hm0 : (M * m0 + 1) % 2 ^ W = 0) (hM : 0 < M) (hb : b ≤ M)
include hW hfit hm0 hM hb

theorem mont_eq : mont W nM M m0 a b = montLoop W M m0 a b nM % M :=
  montSelect_eq hW hfit ((montLoop_lt hm0 hM a b nM).trans_le (by omega))

theorem mont_lt : mont W nM M m0 a b < M :=
  mont_eq hW hfit hm0 hM hb ▸ Nat.mod_lt _ hM

/-- The product by the inverse of the radix, for every `a` of `nM` limbs and `b` of at most `M`. -/
theorem mont_mul_radix_modEq (ha : a < 2 ^ (nM * W)) :
    mont W nM M m0 a b * 2 ^ (W * nM) ≡ a * b [MOD M] := by
  rw [mont_eq hW hfit hm0 hM hb, Nat.mul_comm W]
  refine ((Nat.mod_modEq _ M).mul_right _).trans ?_
  simpa only [Nat.mod_eq_of_lt ha] using montLoop_mul_modEq hm0 a b nM

end

end Datapath

/-- Settles O56: the accumulator stays below `M + b`, one subtraction reduces it, and a reduced `a`
has no more limbs than `M`. -/
theorem montgomeryDatapathComputesTheProduct :
    Obligations.MontgomeryDatapathComputesTheProduct := by
  intro wd M m0 a b _ ha hb _ hm0 nM
  have hW := Width.bits_pos wd
  have hM : 0 < M := by omega
  have hfit := Datapath.lt_two_pow_nlimbs_bitlen hW M
  exact ⟨fun i _ => (Datapath.montLoop_lt hm0 hM a b i).trans (by omega),
    Datapath.mont_lt hW hfit hm0 hM hb.le,
    Datapath.mont_mul_radix_modEq hW hfit hm0 hM hb.le (ha.trans hfit)⟩

end Sys2Proof.Machine
end

section
/-!
PROOFS. Modular exponentiation (45_exponentiation.md R320 to R323): the next state of EXP, and the
power that each of the two exponentiation datapaths gives.
-/

namespace Sys2Proof.Machine

/-! ## The command (R321) -/

/-- Settles O47: the power is a modular result, and `powMod` computes it. -/
theorem modularPower : Obligations.ModularPower :=
  ⟨encoded_of_findRow rfl, fun s _ _ _ _ hinv =>
    ⟨fun hv => exec_residue s (execExp.eq_def ..) hv (powMod_eq ..)
        (Nat.mod_lt _ (hinv.val_pos hv)),
      fun hv => s.failsWith_of_invalid hv (execExp.eq_def ..)⟩⟩

namespace Datapath

/-! ## The bit-wise path (R323) -/

/-- A bit selects between the product and the square: the power has that bit appended. -/
theorem sel_bit_pow {W nM M x e c : Nat} (hW : 0 < W) (hfit : M < 2 ^ (nM * W)) (hM : 0 < M)
    (hc : c < 2) :
    sel W c (x ^ (2 * e) % M * x % M) (x ^ (2 * e) % M) nM = x ^ (2 * e + c) % M := by
  have hlt (v : Nat) : v % M < 2 ^ (nM * W) := (Nat.mod_lt v hM).trans hfit
  interval_cases c
  · exact sel_zero ..
  · rw [sel_one hW (hlt _) (hlt _), Nat.mod_mul_mod, Nat.pow_succ]

/-- The loop appends the `j` low bits of `Y` to the exponent so far. -/
theorem expBits_eq {W nM M : Nat} (hW : 0 < W) (hfit : M < 2 ^ (nM * W)) (hM : 0 < M) (x Y : Nat) :
    ∀ j e, expBits W nM M x Y j (x ^ e % M) = x ^ (e * 2 ^ j + Y % 2 ^ j) % M := by
  intro j
  induction j with
  | zero => intro e; simp [expBits, Nat.mod_one]
  | succ j ih =>
    intro e
    have hsq : x ^ e % M * (x ^ e % M) % M = x ^ (2 * e) % M := by
      rw [← Nat.mul_mod, ← Nat.pow_add, Nat.two_mul]
    have hexp : (2 * e + Y / 2 ^ j % 2) * 2 ^ j + Y % 2 ^ j =
        e * 2 ^ (j + 1) + Y % 2 ^ (j + 1) := by
      rw [Nat.mod_pow_succ]
      ring
    simp only [expBits, hsq]
    rw [sel_bit_pow hW hfit hM (Nat.mod_lt _ Nat.two_pos), ih, hexp]

/-- R323: the power for every exponent of `ny` limbs, whatever the parity of the modulus. -/
theorem expEven_eq {W nM M ny x Y : Nat} (hW : 0 < W) (hfit : M < 2 ^ (nM * W)) (hM : 0 < M)
    (hY : Y < 2 ^ (ny * W)) : expEven W nM M ny x Y = x ^ Y % M := by
  have hloop := expBits_eq hW hfit hM x Y (ny * W) 0
  rwa [Nat.pow_zero, Nat.zero_mul, Nat.zero_add, Nat.mod_eq_of_lt hY] at hloop

/-! ## Montgomery form (R300, R303) -/

/-- The Montgomery form of a value, `v*R mod M`. -/
def montForm (W nM M v : Nat) : Nat := v * 2 ^ (W * nM) % M

theorem montForm_lt {W nM M : Nat} (hM : 0 < M) (v : Nat) : montForm W nM M v < M :=
  Nat.mod_lt _ hM

theorem montForm_one (W nM M : Nat) : montForm W nM M 1 = 2 ^ (W * nM) % M := by
  rw [montForm, Nat.one_mul]

section
variable {W nM M m0 : Nat} (hW : 0 < W) (hfit : M < 2 ^ (nM * W))
  (hm0 : (M * m0 + 1) % 2 ^ W = 0) (hodd : M % 2 = 1)
include hW hfit hm0 hodd

/-- What, times `R`, is `a*b` mod `M` is the Montgomery product: `R` is prime to an odd modulus. -/
theorem mont_eq_mod {a b r : Nat} (ha : a < M) (hb : b ≤ M)
    (hr : r * 2 ^ (W * nM) ≡ a * b [MOD M]) : mont W nM M m0 a b = r % M := by
  have hM : 0 < M := by omega
  have hcop : Nat.Coprime M (2 ^ (W * nM)) :=
    (Nat.coprime_two_right.mpr (Nat.odd_iff.mpr hodd)).pow_right _
  have hmul := mont_mul_radix_modEq hW hfit hm0 hM hb (ha.trans hfit)
  have hmod := Nat.ModEq.cancel_right_of_coprime hcop (hmul.trans hr.symm)
  exact (Nat.mod_eq_of_lt (mont_lt hW hfit hm0 hM hb)).symm.trans hmod

/-- The product of two forms is the form of the product. -/
theorem mont_montForm (u v : Nat) :
    mont W nM M m0 (montForm W nM M u) (montForm W nM M v) = montForm W nM M (u * v) := by
  have hM : 0 < M := by omega
  refine mont_eq_mod hW hfit hm0 hodd (montForm_lt hM u) (montForm_lt hM v).le ?_
  calc u * v * 2 ^ (W * nM) * 2 ^ (W * nM)
      = u * 2 ^ (W * nM) * (v * 2 ^ (W * nM)) := by ring
    _ ≡ montForm W nM M u * montForm W nM M v [MOD M] :=
        ((Nat.mod_modEq _ M).mul (Nat.mod_modEq _ M)).symm

/-- The product with 1 leaves Montgomery form. -/
theorem mont_montForm_one (u : Nat) : mont W nM M m0 (montForm W nM M u) 1 = u % M := by
  have hM : 0 < M := by omega
  refine mont_eq_mod hW hfit hm0 hodd (montForm_lt hM u) hM ?_
  rw [Nat.mul_one]
  exact (Nat.mod_modEq _ M).symm

/-! ## The table and its lookup (R322) -/

theorem expTable_eq (x : Nat) :
    ∀ i, expTable W nM M m0 (montForm W nM M x) i = montForm W nM M (x ^ i)
  | 0 => by rw [expTable, Nat.pow_zero, montForm_one]
  | 1 => by rw [expTable, Nat.pow_one]
  | i + 2 => by
    rw [expTable, expTable_eq x (i + 1), mont_montForm hW hfit hm0 hodd, ← Nat.pow_succ]

end

/-- Past the entry of the window, no mask is set. -/
theorem lookup_of_lt {W nM v : Nat} : ∀ (l : List Nat) (i e : Nat), v < i →
    lookup W nM v l i e = e := by
  intro l
  induction l with
  | nil => exact fun _ _ _ => rfl
  | cons entry rest ih =>
    intro i e hv
    rw [lookup, ctEq_eq, if_neg hv.ne, sel_zero, ih _ _ (by omega)]

/-- The masked scan gives the entry of the window, when the entries fit `nM` limbs. -/
theorem lookup_eq {W nM : Nat} (hW : 0 < W) :
    ∀ (l : List Nat) (k i e entry : Nat), (∀ t ∈ l, t < 2 ^ (nM * W)) → e < 2 ^ (nM * W) →
      l[k]? = some entry → lookup W nM (i + k) l i e = entry := by
  intro l
  induction l with
  | nil => intro k i e entry _ _ hk; simp at hk
  | cons t rest ih =>
    intro k i e entry hfit he hk
    obtain ⟨ht, hrest⟩ := List.forall_mem_cons.mp hfit
    rw [lookup]
    cases k with
    | zero =>
      obtain rfl : t = entry := by simpa using hk
      rw [lookup_of_lt _ _ _ (by omega), ctEq_eq, if_pos (by omega), sel_one hW ht he]
    | succ k =>
      rw [Nat.add_comm k, ← Nat.add_assoc]
      exact ih k (i + 1) _ entry hrest (sel_lt _ _ ht he) (by simpa using hk)

/-! ## The windowed path (R322) -/

section
variable {W nM M m0 : Nat} (hW : 0 < W) (hfit : M < 2 ^ (nM * W))
  (hm0 : (M * m0 + 1) % 2 ^ W = 0) (hodd : M % 2 = 1)
include hW hfit hm0 hodd

/-- The lookup of a window in the table of 16 powers. -/
theorem lookup_expTable (x : Nat) {v : Nat} (hv : v < 16) :
    lookup W nM v ((List.range 16).map (expTable W nM M m0 (montForm W nM M x))) 0 0 =
      montForm W nM M (x ^ v) := by
  have hM : 0 < M := by omega
  rw [funext (expTable_eq hW hfit hm0 hodd x)]
  have hfits : ∀ t ∈ (List.range 16).map fun i => montForm W nM M (x ^ i), t < 2 ^ (nM * W) := by
    simpa using fun i _ => (montForm_lt hM _).trans hfit
  simpa using lookup_eq hW _ v 0 0 (montForm W nM M (x ^ v)) hfits (Nat.two_pow_pos _)
    (by simp [hv])

theorem mont_montForm_sq (x e : Nat) :
    mont W nM M m0 (montForm W nM M (x ^ e)) (montForm W nM M (x ^ e)) =
      montForm W nM M (x ^ (2 * e)) := by
  rw [mont_montForm hW hfit hm0 hodd, ← Nat.pow_add, Nat.two_mul]

/-- The masked select raises the power by the window: it keeps the product for a window that is not 0,
and for a window 0 the accumulator is that power already. -/
theorem sel_window_pow (x e v : Nat) :
    sel W (1 - ctEq v 0)
        (mont W nM M m0 (montForm W nM M (x ^ e)) (montForm W nM M (x ^ v)))
        (montForm W nM M (x ^ e)) nM =
      montForm W nM M (x ^ (e + v)) := by
  have hlt (u : Nat) : montForm W nM M u < 2 ^ (nM * W) := (montForm_lt (by omega) u).trans hfit
  rw [mont_montForm hW hfit hm0 hodd, ← Nat.pow_add, ctEq_eq]
  split
  · next h => rw [h, Nat.sub_self, sel_zero, Nat.add_zero]
  · exact sel_one hW (hlt _) (hlt _)

/-- The loop appends the `j` low windows of `Y` to the exponent so far. -/
theorem expWindows_eq {x : Nat} {table : List Nat} (Y : Nat)
    (htable : ∀ v, v < 16 → lookup W nM v table 0 0 = montForm W nM M (x ^ v)) :
    ∀ j e, expWindows W nM M m0 Y table j (montForm W nM M (x ^ e)) =
      montForm W nM M (x ^ (e * 16 ^ j + Y % 16 ^ j)) := by
  intro j
  induction j with
  | zero => intro e; simp [expWindows, Nat.mod_one]
  | succ j ih =>
    intro e
    have hv : Y / 16 ^ j % 16 < 16 := Nat.mod_lt _ (by decide)
    have hexp : (2 * (2 * (2 * (2 * e))) + Y / 16 ^ j % 16) * 16 ^ j + Y % 16 ^ j =
        e * 16 ^ (j + 1) + Y % 16 ^ (j + 1) := by
      rw [Nat.mod_pow_succ]
      ring
    have hwindow : 2 ^ (4 * j) = 16 ^ j := Nat.pow_mul 2 4 j
    simp only [expWindows, hwindow, htable _ hv, mont_montForm_sq hW hfit hm0 hodd,
      sel_window_pow hW hfit hm0 hodd]
    rw [ih, hexp]

/-- R322: the power for every exponent of `ny` limbs, since `W` is a multiple of the window. -/
theorem expOdd_eq {ny x Y : Nat} (h4 : 4 ∣ W) (hY : Y < 2 ^ (ny * W)) :
    expOdd W nM M m0 ny x Y = x ^ Y % M := by
  have hcount : 16 ^ (ny * W / 4) = 2 ^ (ny * W) := by
    rw [show 16 = 2 ^ 4 from rfl, ← Nat.pow_mul, Nat.mul_div_cancel' (h4.mul_left ny)]
  have hloop := expWindows_eq hW hfit hm0 hodd Y
    (fun _ => lookup_expTable hW hfit hm0 hodd x) (ny * W / 4) 0
  rw [hcount, Nat.mod_eq_of_lt hY, Nat.zero_mul, Nat.zero_add, Nat.pow_zero, montForm_one] at hloop
  calc expOdd W nM M m0 ny x Y
      = mont W nM M m0 (montForm W nM M (x ^ Y)) 1 := congrArg (mont W nM M m0 · 1) hloop
    _ = x ^ Y % M := mont_montForm_one hW hfit hm0 hodd (x ^ Y)

end

end Datapath

theorem Width.four_dvd_bits (wd : Width) : 4 ∣ wd.bits := by cases wd <;> decide

/-- Settles O57: both loops scan the exponent from the top, the windows in Montgomery form and the
bits on plain residues. -/
theorem exponentiationDatapathsGiveThePower :
    Obligations.ExponentiationDatapathsGiveThePower := by
  intro wd M m0 ny x Y hx hY nM
  have hW := Width.bits_pos wd
  have hfit := Datapath.lt_two_pow_nlimbs_bitlen hW M
  exact ⟨fun hodd _ hm0 => Datapath.expOdd_eq hW hfit hm0 hodd (Width.four_dvd_bits wd) hY,
    Datapath.expEven_eq hW hfit (by omega) hY⟩

end Sys2Proof.Machine
end


section
/-!
PROOFS. The modular inverse and the coprimality test (46_inverse.md R340 to R347), and the
comparison scans (41_nat_arithmetic.md R218): the next state of each command, the invariant of the
binary extended GCD, and what the datapaths give.
-/

namespace Sys2Proof.Machine

/-! ## The commands (R341, R345) -/

/-- A modular result that is a draw from `[0, M)` (60_exceptions.md R406). -/
theorem finish_drawResidue (s : State) (d : NReg) (mk : MReg) (md : ModReg) (h : 0 < md.val) :
    finish (s.drawResidue d mk md) = .next
      { s with
        n := s.n.set d.val ⟨bitlen md.val, s.draw md.val, some mk⟩
        draws := s.draws + 1
        busy := false, done := true, cmdcnt := s.cmdcnt + 1 } :=
  finish_setResidue s.drawn d mk md (State.draw_lt h)

/-- Settles O48: a coprime operand has the inverse that `inv` computes, and any other takes a draw
below `M`. -/
theorem modularInverse : Obligations.ModularInverse := by
  refine ⟨encoded_of_findRow rfl, fun s d a mk hinv =>
    ⟨fun hv hcop => ?_, fun hv hcop => ?_, fun hv => ?_⟩⟩
  · have hM : 0 < (s.mreg mk).val := hinv.val_pos hv
    refine ⟨_, inv_lt _ hM, mul_inv_mod hM hcop, ?_⟩
    rw [exec, execModinv, withModulus_valid s hv]
    exact (if_pos hcop).trans (finish_setResidue s d mk _ (inv_lt _ hM))
  · have hM : 0 < (s.mreg mk).val := hinv.val_pos hv
    refine ⟨_, State.draw_lt (s := s) hM, ?_⟩
    rw [exec, execModinv, withModulus_valid s hv]
    exact (if_neg hcop).trans (finish_drawResidue s d mk _ hM)
  · exact s.failsWith_of_invalid hv (execModinv.eq_def ..)

/-- Settles O49: the Choice fits a word. -/
theorem coprimalityTest : Obligations.CoprimalityTest := by
  refine ⟨encoded_of_findRow rfl, fun s d a b => ?_⟩
  rw [exec, execCoprime, ctEq_eq]
  exact finish_setW s d (s.ite_lt_word _)

namespace Datapath

/-! ## Halving modulo an odd modulus (R342) -/

/-- The half of `u` modulo an odd `M`, with `(M + 1) / 2` added for an odd `u`. -/
def halveMod (M u : Nat) : Nat := u / 2 + u % 2 * ((M + 1) / 2)

theorem halveMod_of_even {M u : Nat} (h : u % 2 = 0) : halveMod M u = u / 2 := by
  rw [halveMod, h, Nat.zero_mul, Nat.add_zero]

theorem halveMod_of_odd {M u : Nat} (h : u % 2 = 1) : halveMod M u = u / 2 + (M + 1) / 2 := by
  rw [halveMod, h, Nat.one_mul]

theorem halveMod_lt {M u : Nat} (hodd : M % 2 = 1) (hu : u < M) : halveMod M u < M := by
  rcases Nat.mod_two_eq_zero_or_one u with h | h
  · rw [halveMod_of_even h]
    omega
  · rw [halveMod_of_odd h]
    omega

theorem two_mul_halveMod {M : Nat} (hodd : M % 2 = 1) (u : Nat) :
    2 * halveMod M u ≡ u [MOD M] := by
  rcases Nat.mod_two_eq_zero_or_one u with h | h
  · rw [halveMod_of_even h, show 2 * (u / 2) = u by omega]
  · rw [halveMod_of_odd h, show 2 * (u / 2 + (M + 1) / 2) = u + M by omega]
    exact Nat.add_modEq_right

/-- What is congruent to an even value has its half congruent to the half of that value. -/
theorem mul_halveMod {M x u a : Nat} (hodd : M % 2 = 1) (ha : a % 2 = 0) (h : x * u ≡ a [MOD M]) :
    x * halveMod M u ≡ a / 2 [MOD M] := by
  refine Nat.ModEq.cancel_left_of_coprime (c := 2)
    (Nat.coprime_two_right.mpr (Nat.odd_iff.mpr hodd)) ?_
  calc 2 * (x * halveMod M u) = x * (2 * halveMod M u) := Nat.mul_left_comm ..
    _ ≡ x * u [MOD M] := (two_mul_halveMod hodd u).mul_left x
    _ ≡ a [MOD M] := h
    _ = 2 * (a / 2) := by omega

/-! ## The invariant of the loop (R342) -/

/-- What the binary extended GCD keeps: `b` is odd, `a` and `b` fit `n` bits and have the greatest
common divisor `d`, and `u` and `v` are residues that `x` takes to `a` and `b`. The product `a*b` is
below `2^k`, where `k` counts down. -/
structure GcdInv (n M x d k : Nat) (g : Gcd) : Prop where
  odd : g.b % 2 = 1
  a_lt : g.a < 2 ^ n
  b_lt : g.b < 2 ^ n
  u_lt : g.u < M
  v_lt : g.v < M
  gcd_eq : Nat.gcd g.a g.b = d
  mul_lt : g.a * g.b < 2 ^ k
  u_eq : x * g.u ≡ g.a [MOD M]
  v_eq : x * g.v ≡ g.b [MOD M]

namespace GcdInv
variable {n M x d k a u b v : Nat}

theorem swap (h : GcdInv n M x d k ⟨a, u, b, v⟩) (ha : a % 2 = 1) :
    GcdInv n M x d k ⟨b, v, a, u⟩ where
  odd := ha
  a_lt := h.b_lt
  b_lt := h.a_lt
  u_lt := h.v_lt
  v_lt := h.u_lt
  gcd_eq := (Nat.gcd_comm b a).trans h.gcd_eq
  mul_lt := Nat.mul_comm a b ▸ h.mul_lt
  u_eq := h.v_eq
  v_eq := h.u_eq

theorem sub (h : GcdInv n M x d k ⟨a, u, b, v⟩) (hle : b ≤ a) :
    GcdInv n M x d k ⟨a - b, (u + M - v) % M, b, v⟩ where
  odd := h.odd
  a_lt := (Nat.sub_le a b).trans_lt h.a_lt
  b_lt := h.b_lt
  u_lt := Nat.mod_lt _ (Nat.zero_lt_of_lt h.u_lt)
  v_lt := h.v_lt
  gcd_eq := (Nat.gcd_sub_self_left hle).trans h.gcd_eq
  mul_lt := (Nat.mul_le_mul_right b (Nat.sub_le a b)).trans_lt h.mul_lt
  u_eq := by
    have hvM : v < M := h.v_lt
    refine Nat.ModEq.add_right_cancel h.v_eq ?_
    calc x * ((u + M - v) % M) + x * v
        ≡ x * (u + M - v) + x * v [MOD M] := ((Nat.mod_modEq _ M).mul_left x).add_right _
      _ = x * u + M * x := by
          rw [← Nat.mul_add, Nat.sub_add_cancel (by omega)]
          ring
      _ ≡ x * u [MOD M] := by simp [Nat.ModEq]
      _ ≡ a [MOD M] := h.u_eq
      _ = a - b + b := (Nat.sub_add_cancel hle).symm
  v_eq := h.v_eq

/-- The halving does not change the common divisor with an odd `b`, and halves the product. -/
theorem halve (h : GcdInv n M x d (k + 1) ⟨a, u, b, v⟩) (hodd : M % 2 = 1) (ha : a % 2 = 0) :
    GcdInv n M x d k ⟨a / 2, halveMod M u, b, v⟩ := by
  have hsplit : 2 * (a / 2) = a := by omega
  have hcop : Nat.Coprime 2 b := Nat.coprime_two_left.mpr (Nat.odd_iff.mpr h.odd)
  have hgcd : Nat.gcd (a / 2) b = Nat.gcd a b := by
    rw [← hcop.gcd_mul_left_cancel (a / 2), hsplit]
  have hmul : 2 * (a / 2 * b) < 2 * 2 ^ k := by
    rw [← Nat.mul_assoc, hsplit, ← Nat.pow_succ']
    exact h.mul_lt
  exact ⟨h.odd, (Nat.div_le_self a 2).trans_lt h.a_lt, h.b_lt, halveMod_lt hodd h.u_lt, h.v_lt,
    hgcd.trans h.gcd_eq, Nat.lt_of_mul_lt_mul_left hmul, mul_halveMod hodd ha h.u_eq, h.v_eq⟩

/-- A product below 2 leaves `a = 0`, or `a = b = 1`: either way `b` is the common divisor. -/
theorem b_eq {g : Gcd} (h : GcdInv n M x d 1 g) : g.b = d := by
  have hb : 0 < g.b := Nat.pos_of_ne_zero fun h0 => by simpa [h0] using h.odd
  have hgcd := h.gcd_eq
  rcases Nat.eq_zero_or_pos g.a with ha | ha
  · rwa [ha, Nat.gcd_zero_left] at hgcd
  · have hab : g.a * g.b = 1 := Nat.le_antisymm (Nat.le_of_lt_succ h.mul_lt) (Nat.mul_pos ha hb)
    obtain ⟨ha1, hb1⟩ := mul_eq_one.mp hab
    rw [ha1, hb1, Nat.gcd_self] at hgcd
    exact hb1.trans hgcd

end GcdInv

/-! ## One iteration (R342) -/

theorem gcdStep_of_even {W nM M a u b v : Nat} (ha : a % 2 = 0) :
    gcdStep W nM M ⟨a, u, b, v⟩ = ⟨a / 2, halveMod M u, b, v⟩ := by
  simp [gcdStep, ha, halveMod]

section
variable {W nM M : Nat} (hW : 0 < W) (hfit : M < 2 ^ (nM * W))
include hW hfit

/-- From two odd values the smaller is subtracted, and the difference is halved. -/
theorem gcdStep_of_le {a u b v : Nat} (ha : a % 2 = 1) (hle : b ≤ a) (hfa : a < 2 ^ (nM * W))
    (hu : u < M) (hv : v < M) :
    gcdStep W nM M ⟨a, u, b, v⟩ = ⟨(a - b) / 2, halveMod M ((u + M - v) % M), b, v⟩ := by
  have hkeep : ctGt b a = 0 := by rw [ctGt_eq, if_neg hle.not_gt]
  have hsub : (u + M - v) % M < 2 ^ (nM * W) := (Nat.mod_lt _ (Nat.zero_lt_of_lt hu)).trans hfit
  simp only [gcdStep, ha, hkeep, Nat.mul_zero, sel_zero, modSub_eq hW hfit hu hv,
    sel_one hW ((Nat.sub_le a b).trans_lt hfa) hfa, sel_one hW hsub (hu.trans hfit), halveMod]

/-- The larger of two odd values comes to stand in `a` first. -/
theorem gcdStep_of_lt {a u b v : Nat} (ha : a % 2 = 1) (hb : b % 2 = 1) (hlt : a < b)
    (hfb : b < 2 ^ (nM * W)) (hu : u < M) (hv : v < M) :
    gcdStep W nM M ⟨a, u, b, v⟩ = gcdStep W nM M ⟨b, v, a, u⟩ := by
  have hswap : ctGt b a = 1 := by rw [ctGt_eq, if_pos hlt]
  have hkeep : ctGt a b = 0 := by rw [ctGt_eq, if_neg hlt.le.not_gt]
  have hfa := hlt.trans hfb
  simp only [gcdStep, ha, hb, hswap, hkeep, Nat.mul_one, Nat.mul_zero, sel_zero, sel_one hW hfa hfb,
    sel_one hW hfb hfa, sel_one hW (hu.trans hfit) (hv.trans hfit),
    sel_one hW (hv.trans hfit) (hu.trans hfit)]

/-! ## The loop (R342) -/

variable (hodd : M % 2 = 1)
include hodd

theorem GcdInv.step_of_le {x d k a u b v : Nat} (h : GcdInv (nM * W) M x d (k + 1) ⟨a, u, b, v⟩)
    (ha : a % 2 = 1) (hle : b ≤ a) :
    GcdInv (nM * W) M x d k (gcdStep W nM M ⟨a, u, b, v⟩) := by
  have hb : b % 2 = 1 := h.odd
  rw [gcdStep_of_le hW hfit ha hle h.a_lt h.u_lt h.v_lt]
  exact (h.sub hle).halve hodd (by omega)

theorem GcdInv.step {x d k : Nat} {g : Gcd} (h : GcdInv (nM * W) M x d (k + 1) g) :
    GcdInv (nM * W) M x d k (gcdStep W nM M g) := by
  obtain ⟨a, u, b, v⟩ := g
  rcases Nat.mod_two_eq_zero_or_one a with ha | ha
  · rw [gcdStep_of_even ha]
    exact h.halve hodd ha
  · rcases Nat.lt_or_ge a b with hlt | hle
    · rw [gcdStep_of_lt hW hfit ha h.odd hlt h.b_lt h.u_lt h.v_lt]
      exact (h.swap ha).step_of_le hW hfit hodd h.odd hlt.le
    · exact h.step_of_le hW hfit hodd ha hle

theorem GcdInv.loop {x d k : Nat} :
    ∀ i g, GcdInv (nM * W) M x d (k + i) g → GcdInv (nM * W) M x d k (gcdLoop W nM M i g)
  | 0, _, h => h
  | i + 1, _, h => loop i _ (h.step hW hfit hodd)

/-- `2*W*nM - 1` iterations bring a product of two values of `nM` limbs below 2. -/
theorem gcdLoop_inv {x a u b v : Nat} (hb : b % 2 = 1) (hfa : a < 2 ^ (nM * W))
    (hfb : b < 2 ^ (nM * W)) (hu : u < M) (hv : v < M) (hxu : x * u ≡ a [MOD M])
    (hxv : x * v ≡ b [MOD M]) :
    GcdInv (nM * W) M x (Nat.gcd a b) 1 (gcdLoop W nM M (2 * W * nM - 1) ⟨a, u, b, v⟩) := by
  have hpos : 0 < nM * W := Nat.pos_of_ne_zero fun h0 => by
    rw [h0] at hfb
    omega
  have hbits : 1 + (2 * W * nM - 1) = nM * W + nM * W := by
    rw [Nat.mul_assoc, Nat.mul_comm W]
    omega
  have hmul : a * b < 2 ^ (1 + (2 * W * nM - 1)) := by
    rw [hbits, Nat.pow_add]
    exact Nat.mul_lt_mul'' hfa hfb
  exact GcdInv.loop hW hfit hodd _ _ ⟨hb, hfa, hfb, hu, hv, rfl, hmul, hxu, hxv⟩

end

/-! ## The inverse datapaths (R342, R343) -/

/-- R342: the loop started on `x` and the modulus leaves the inverse in `v`. -/
theorem modInvOdd_spec {W M x : Nat} (hW : 0 < W) (hodd : M % 2 = 1) (hx : x < M)
    (hcop : Nat.gcd x M = 1) :
    modInvOdd W (nlimbs W (bitlen M)) M x < M ∧
      x * modInvOdd W (nlimbs W (bitlen M)) M x ≡ 1 [MOD M] := by
  have hM : 0 < M := by omega
  have hfit := lt_two_pow_nlimbs_bitlen hW M
  have hxu : x * (1 % M) ≡ x [MOD M] := by simpa using (Nat.mod_modEq 1 M).mul_left x
  have hxv : x * 0 ≡ M [MOD M] := by simp [Nat.ModEq]
  have hend := gcdLoop_inv hW hfit hodd hodd (hx.trans hfit) hfit (Nat.mod_lt 1 hM) hM hxu hxv
  refine ⟨hend.v_lt, hend.v_eq.trans ?_⟩
  rw [hend.b_eq, hcop]

/-- From `A*M = 1 mod x`, the negated quotient `(A*M - 1) / x` is the inverse of `x` mod `M`. -/
theorem mul_neg_quotient_modEq_one {M x A : Nat} (hM : 0 < M) (hA : A * M ≡ 1 [MOD x])
    (hpos : 1 ≤ A * M) : x * ((M - (A * M - 1) / x % M) % M) ≡ 1 [MOD M] := by
  set k := (A * M - 1) / x
  have hk : x * k + 1 = A * M := by
    rw [Nat.mul_div_cancel' ((Nat.modEq_iff_dvd' hpos).mp hA.symm), Nat.sub_add_cancel hpos]
  have hneg : (M - k % M) % M + k ≡ 0 [MOD M] := by
    calc (M - k % M) % M + k
        ≡ M - k % M + k % M [MOD M] := (Nat.mod_modEq _ M).add (Nat.mod_modEq k M).symm
      _ = M := Nat.sub_add_cancel (Nat.mod_lt k hM).le
      _ ≡ 0 [MOD M] := by simp [Nat.ModEq]
  refine Nat.ModEq.add_right_cancel' (x * k) ?_
  calc x * ((M - k % M) % M) + x * k
      = x * ((M - k % M) % M + k) := (Nat.mul_add ..).symm
    _ ≡ x * 0 [MOD M] := hneg.mul_left x
    _ ≡ A * M [MOD M] := by simp [Nat.ModEq]
    _ = 1 + x * k := by rw [← hk, Nat.add_comm]

/-- R343: the inverse modulo an even `M`, by that of `M` modulo the odd `x`. -/
theorem modInvEven_spec {W M x : Nat} (hW : 0 < W) (heven : M % 2 = 0) (hx : x < M)
    (hcop : Nat.gcd x M = 1) :
    modInvEven W (nlimbs W (bitlen M)) M x < M ∧
      x * modInvEven W (nlimbs W (bitlen M)) M x ≡ 1 [MOD M] := by
  have hM : 0 < M := by omega
  have hxodd : x % 2 = 1 := by
    by_contra h
    have hdvd : 2 ∣ Nat.gcd x M := Nat.dvd_gcd (by omega) (by omega)
    omega
  have hswapped : Nat.gcd (M % x) x = 1 := (Nat.gcd_rec x M).symm.trans hcop
  obtain ⟨hlt, hinv⟩ := modInvOdd_spec hW hxodd (Nat.mod_lt M (by omega)) hswapped
  rw [modInvEven]
  set A := modInvOdd W (nlimbs W (bitlen x)) x (M % x)
  have hA : A * M ≡ 1 [MOD x] := by
    rw [Nat.mul_comm]
    exact ((Nat.mod_modEq M x).symm.mul_right A).trans hinv
  split
  · next h0 =>
    obtain rfl : x = 1 := by
      rw [h0] at hA
      exact Nat.dvd_one.mp ((Nat.modEq_zero_iff_dvd).mp hA.symm)
    exact ⟨Nat.mod_lt 1 hM, by simpa using Nat.mod_modEq 1 M⟩
  · next h0 =>
    have hfit := lt_two_pow_nlimbs_bitlen hW M
    have hdouble : A * M < 2 ^ (2 * nlimbs W (bitlen M) * W) := by
      rw [Nat.mul_assoc, Nat.two_mul, Nat.pow_add]
      exact Nat.mul_lt_mul'' (hlt.trans (hx.trans hfit)) hfit
    have hApos : 0 < A := Nat.pos_of_mul_pos_right (Nat.pos_of_ne_zero h0)
    have hxle : x ≤ A * M := hx.le.trans (Nat.le_mul_of_pos_left M hApos)
    rw [divDouble_eq (by omega) (by omega) (by omega)]
    exact ⟨Nat.mod_lt _ hM, mul_neg_quotient_modEq_one hM hA (by omega)⟩

/-! ## The coprimality datapath (R347) -/

/-- The loop without `u` and `v` does to `a` and `b` what the extended loop does. -/
theorem coprimeLoop_eq (W t M : Nat) : ∀ i g, coprimeLoop W t i (g.a, g.b) =
    ((gcdLoop W t M i g).a, (gcdLoop W t M i g).b)
  | 0, _ => rfl
  | i + 1, g => coprimeLoop_eq W t M i (gcdStep W t M g)

section
variable {W t x y : Nat} (hW : 0 < W) (hx : x < 2 ^ (t * W)) (hy : y < 2 ^ (t * W))
include hW hx hy

/-- With an odd `b`, the loop ends with the common divisor: it is the extended loop modulo 1. -/
theorem coprimeLoop_snd (hodd : y % 2 = 1) :
    (coprimeLoop W t (2 * W * t - 1) (x, y)).2 = Nat.gcd x y := by
  have hone : 1 < 2 ^ (t * W) := Nat.one_lt_two_pow fun h0 => by
    rw [h0] at hy
    omega
  rw [coprimeLoop_eq W t 1 _ ⟨x, 0, y, 0⟩]
  exact (gcdLoop_inv (x := 0) hW hone rfl hodd hx hy Nat.one_pos Nat.one_pos Nat.modEq_one
    Nat.modEq_one).b_eq

/-- R347: an odd value stands in `b` when one exists, and two even values give 0. -/
theorem coprime_eq : coprime W t x y = if Nat.gcd x y = 1 then 1 else 0 := by
  rw [coprime]
  rcases Nat.mod_two_eq_zero_or_one y with hye | hyo
  · rcases Nat.mod_two_eq_zero_or_one x with hxe | hxo
    · have hdvd : 2 ∣ Nat.gcd x y :=
        Nat.dvd_gcd (Nat.dvd_of_mod_eq_zero hxe) (Nat.dvd_of_mod_eq_zero hye)
      have hne : Nat.gcd x y ≠ 1 := by omega
      simp [hxe, hye, hne]
    · simp [hxo, hye, sel_one hW hx hy, sel_one hW hy hx, coprimeLoop_snd hW hy hx hxo, ctEq_eq,
        Nat.gcd_comm y x]
  · simp [hyo, coprimeLoop_snd hW hx hy hyo, ctEq_eq]

end

/-! ## The comparison scans (R218) -/

/-- Of two values, the one with the greater upper part is the greater. -/
theorem add_mul_lt_add_mul {B x p q : Nat} (hx : x < B) (h : p < q) (y : Nat) :
    x + B * p < y + B * q :=
  calc x + B * p < B * (p + 1) := by rw [Nat.mul_succ]; omega
    _ ≤ B * q := Nat.mul_le_mul_left B h
    _ ≤ y + B * q := Nat.le_add_left ..

section
variable {B x y : Nat} (hx : x < B) (hy : y < B) (p q : Nat)
include hx hy

theorem ctEq_add_mul : ctEq (x + B * p) (y + B * q) = ctEq p q * ctEq x y := by
  rcases Nat.lt_trichotomy p q with h | rfl | h
  · simp [ctEq_eq, h.ne, (add_mul_lt_add_mul hx h y).ne]
  · simp [ctEq_eq]
  · simp [ctEq_eq, h.ne', (add_mul_lt_add_mul hy h x).ne']

/-- The upper parts decide, and on equal ones the lower parts. -/
theorem ctGt_add_mul : ctGt (x + B * p) (y + B * q) = ctGt p q + ctEq p q * ctGt x y := by
  rcases Nat.lt_trichotomy p q with h | rfl | h
  · simp [ctEq_eq, ctGt_eq, h.ne, h.le.not_gt, (add_mul_lt_add_mul hx h y).le.not_gt]
  · simp [ctEq_eq, ctGt_eq]
  · simp [ctEq_eq, ctGt_eq, h, h.ne', add_mul_lt_add_mul hy h x]

end

/-- The scan of the low `j` limbs compares the values they make, on what is known so far. -/
theorem cmpScan_eq (W x y : Nat) : ∀ j e g, cmpScan W x y j (e, g) =
    (e * ctEq (x % 2 ^ (j * W)) (y % 2 ^ (j * W)), g + e * ctGt (x % 2 ^ (j * W)) (y % 2 ^ (j * W)))
  | 0, e, g => by simp [cmpScan, Nat.mod_one, ctEq_eq, ctGt_eq]
  | j + 1, e, g => by
    have hlow (v : Nat) : v % 2 ^ (j * W) < 2 ^ (j * W) := Nat.mod_lt _ (Nat.two_pow_pos _)
    rw [cmpScan, cmpScan_eq W x y j, mod_two_pow_succ_limbs, mod_two_pow_succ_limbs,
      ctEq_add_mul (hlow x) (hlow y), ctGt_add_mul (hlow x) (hlow y)]
    ring_nf

theorem orLimbs_eq_zero_iff (W x : Nat) : ∀ t, orLimbs W x t = 0 ↔ x % 2 ^ (t * W) = 0
  | 0 => by simp [orLimbs, Nat.mod_one]
  | t + 1 => by
    rw [orLimbs, Nat.or_eq_zero_iff, orLimbs_eq_zero_iff W x t, mod_two_pow_succ_limbs]
    simp

theorem cmp_eq {W t x y : Nat} (hx : x < 2 ^ (t * W)) (hy : y < 2 ^ (t * W)) :
    cmp W t x y = (if y < x then 1 else 0, if x = y then 1 else 0, if x < y then 1 else 0) := by
  rw [cmp, cmpScan_eq, Nat.mod_eq_of_lt hx, Nat.mod_eq_of_lt hy, ctEq_eq, ctGt_eq]
  rcases Nat.lt_trichotomy x y with h | h | h
  · simp [h, h.ne, h.le.not_gt]
  · simp [h]
  · simp [h, h.ne', h.le.not_gt]

theorem eqZero_eq {W t x : Nat} (hx : x < 2 ^ (t * W)) : eqZero W t x = if x = 0 then 1 else 0 := by
  rw [eqZero, ctEq_eq]
  simp only [orLimbs_eq_zero_iff, Nat.mod_eq_of_lt hx]

end Datapath

/-- Settles O58: the loop of 46_inverse.md R342 keeps `GcdInv`, whose last `v` is the inverse, and
for an even modulus the roles are swapped. -/
theorem inverseDatapathsInvert : Obligations.InverseDatapathsInvert := by
  intro wd M x hx hcop nM
  have hW := Width.bits_pos wd
  exact ⟨fun hodd => Datapath.modInvOdd_spec hW hodd hx hcop,
    fun heven => Datapath.modInvEven_spec hW heven hx hcop⟩

/-- Settles O59: the coprimality loop is the extended loop modulo 1, the comparison goes limb by
limb, and an OR is 0 exactly when every limb is. -/
theorem scanDatapathsDecide : Obligations.ScanDatapathsDecide := by
  intro wd t x y hx hy
  exact ⟨Datapath.coprime_eq (Width.bits_pos wd) hx hy, Datapath.cmp_eq hx hy,
    Datapath.eqZero_eq hx⟩

end Sys2Proof.Machine
end

section
/-!
PROOFS. How an accepted word completes (60_exceptions.md R400 to R404): the engine's step is that of the
decoded command or of the decode error, a completion records the first error of the table or none, the
fault log keeps it, and the interrupt line follows (R410).
-/

namespace Sys2Proof.Machine

variable {s t : State}

/-! ## The engine's step by the decoded word (R400; 30_encoding.md R132) -/

theorem completion_of_command {i : Instr} (h : decode s.cmd = .command i) :
    completion s = exec i s := by
  rw [completion, h]

theorem completion_of_illegal {e : DecodeError} (h : decode s.cmd = .illegal e) :
    completion s = abort s (decodeErrCode e) := by
  rw [completion, h]

theorem step_of_nil (h : s.script = []) : step s = engineStep s := by
  rw [step, h]

theorem step_of_engine {rest : List Event} (h : s.script = .engine :: rest) :
    step s = engineStep { s with script := rest } := by
  rw [step, h]
  rfl

theorem engineStep_of_command {i : Instr} (hb : s.busy = true) (hd : decode s.cmd = .command i) :
    engineStep s = exec i s := by
  rw [engineStep_busy hb, completion_of_command hd]

/-- Settles O28: the event taken off the script is not seen by BUSY or CMD. -/
theorem stepRunsTheDecodedCommand : Obligations.StepRunsTheDecodedCommand :=
  fun s => ⟨fun _ hb hd =>
      ⟨fun hs => (step_of_nil hs).trans (engineStep_of_command hb hd),
        fun rest hs => (step_of_engine hs).trans
          (engineStep_of_command (s := { s with script := rest }) hb hd)⟩,
    fun hb =>
      ⟨fun hs => (step_of_nil hs).trans (engineStep_idle hb),
        fun rest hs => (step_of_engine hs).trans
          (engineStep_idle (s := { s with script := rest }) hb)⟩⟩

/-- A busy engine's completion of a word that is no command. -/
theorem engineStep_of_illegal {e : DecodeError} (hb : s.busy = true) (hd : decode s.cmd = .illegal e) :
    ∃ t, engineStep s = .next t ∧ s.CompletedWithError t (decodeErrCode e) := by
  rw [engineStep_busy hb, completion_of_illegal hd]
  exact abort_answers s _

/-- Settles O29: the completion of a word that is no command is the abort with its decode error. -/
theorem illegalWordsCompleteWithTheirError : Obligations.IllegalWordsCompleteWithTheirError := by
  refine fun s e hb hd => ⟨fun hs => ?_, fun rest hs => ?_⟩
  · rw [step_of_nil hs]
    exact engineStep_of_illegal hb hd
  · rw [step_of_engine hs]
    exact engineStep_of_illegal (s := { s with script := rest }) hb hd

/-! ## The error a command ends with (R402, R404) -/

/-- The outcome is a completion of `s` with the error `e`, NONE for a completion without one. -/
def CompletesWith (s : State) (e : ErrCode) (o : Host.Outcome State Fault Refusal) : Prop :=
  ∃ t, o = .next t ∧ (e = .none → s.CompletedOk t) ∧ (e ≠ .none → s.CompletedWithError t e)

namespace CompletesWith

theorem ofAbort {e : ErrCode} (he : e ≠ .none) : CompletesWith s e (abort s e) :=
  ⟨_, rfl, fun h => absurd h he, fun _ => s.completedWithError_fail e⟩

/-- A completion that writes register files and draws only has no error. -/
theorem ofFinish {u : State} (h : u = { s with n := u.n, w := u.w, m := u.m, draws := u.draws }) :
    CompletesWith s .none (finish u) := by
  refine ⟨_, rfl, fun _ => ?_, fun hne => absurd rfl hne⟩
  rw [h]
  exact s.completedOk_complete

/-- A check comes first in the outcome as in the table. -/
theorem check {c c' : Prop} [Decidable c] [Decidable c'] {e e' : ErrCode}
    {o : Host.Outcome State Fault Refusal} (hc : c ↔ c') (he : e ≠ .none)
    (h : ¬ c → CompletesWith s e' o) :
    CompletesWith s (if c' then e else e') (if c then abort s e else o) := by
  by_cases hcc : c
  · rw [if_pos hcc, if_pos (hc.mp hcc)]
    exact ofAbort he
  · rw [if_neg hcc, if_neg (mt hc.mpr hcc)]
    exact h hcc

/-! ### The operand forms -/

theorem ofVectorCommand {d : NReg} {e : WReg} {k : Nat} {r : Nat × Nat} :
    CompletesWith s (if k = 0 ∨ s.L < k then .length else .none) (vectorCommand s d e k r) := by
  rw [vectorCommand_eq]
  exact check .rfl nofun fun _ => ofFinish rfl

theorem ofVectorShift {d : NReg} {e : WReg} {k amount : Nat} {r : Nat × Nat} :
    CompletesWith s (if k = 0 ∨ s.L < k then .length else if s.W ≤ amount then .shift else .none)
      (vectorShift s d e k amount r) := by
  rw [vectorShift_eq]
  exact check .rfl nofun fun _ => check .rfl nofun fun _ => ofFinish rfl

theorem ofCappedCommand {d : NReg} {cap : Nat} {r : Nat → Nat} :
    CompletesWith s (if s.L * s.W < cap then .length else .none) (cappedCommand s d cap r) :=
  check .rfl nofun fun _ => ofFinish rfl

theorem ofWithModulus {mk : MReg} {e : ErrCode} {f : ModReg → Host.Outcome State Fault Refusal}
    (h : CompletesWith s e (f (s.mreg mk))) :
    CompletesWith s (if (s.mreg mk).valid = false then .modulusInvalid else e)
      (withModulus s mk f) := by
  cases hv : (s.mreg mk).valid with
  | true => simpa [withModulus_valid s hv] using h
  | false => simpa [withModulus_invalid s hv] using ofAbort (e := .modulusInvalid) nofun

theorem ofWithOddModulus {mk : MReg} {e : ErrCode} {f : ModReg → Host.Outcome State Fault Refusal}
    (h : CompletesWith s e (f (s.mreg mk))) :
    CompletesWith s
      (if (s.mreg mk).valid = false then .modulusInvalid
        else if (s.mreg mk).even = true then .modulusEven else e)
      (withOddModulus s mk f) :=
  ofWithModulus (check .rfl nofun fun _ => h)

/-! ### Commands with branches of their own -/

theorem ofDiv1 {d e a b c : WReg} : CompletesWith s .none (execDiv1 d e a b c s) := by
  unfold execDiv1
  split
  · exact ofFinish rfl
  · exact ofFinish rfl

/-- A negative cap is LENGTH, as one above the capacity is (41_nat_arithmetic.md R206). -/
theorem ofNresize {d a : NReg} {cap : Int} :
    CompletesWith s (if cap < 0 ∨ (s.L * s.W : Int) < cap then .length else .none)
      (execNresize d a cap s) := by
  rw [execNresize, cappedCommand_eq, ← ite_or]
  exact check (by omega) nofun fun _ => ofFinish rfl

theorem ofModset {a : NReg} {mk : MReg} :
    CompletesWith s (if (s.nreg a).val = 0 then .emptyModulus else .none) (execModset a mk s) := by
  refine check .rfl nofun fun _ => ?_
  split
  · exact ofFinish rfl
  · exact ofFinish rfl

theorem ofModinv {d a : NReg} {mk : MReg} :
    CompletesWith s (if (s.mreg mk).valid = false then .modulusInvalid else .none)
      (execModinv d a mk s) := by
  refine ofWithModulus ?_
  split
  · exact ofFinish rfl
  · exact ofFinish rfl

theorem ofModsqrt {d a : NReg} {mk : MReg} :
    CompletesWith s
      (if (s.mreg mk).valid = false then .modulusInvalid
        else if (s.mreg mk).even = true then .modulusEven else .none)
      (execModsqrt d a mk s) := by
  refine ofWithOddModulus ?_
  dsimp only
  repeat' split
  all_goals exact ofFinish rfl

end CompletesWith

/-- Every command completes with the first error of the table. -/
theorem exec_completesWith (i : Instr) (s : State) :
    CompletesWith s (commandError i s) (exec i s) := by
  unfold exec
  cases i with
    simp only [commandError, modulusInvalidError, modulusOperand, modulusEvenError, lengthError,
      shiftError, emptyModulusError, Bool.false_eq_true, if_false, decide_eq_true_iff,
      Bool.not_eq_true']
  | nop | wmovi | nsetw | ncopy | cteq | ctgt | ctifelse | ctcondcopy | ctcondswap | ncmp | neq
  | neqzero | coprime => exact .ofFinish rfl
  | ngetw | nputw => exact .check .rfl nofun fun _ => .ofFinish rfl
  | div1 => exact .ofDiv1
  | addvv | subvv | addmulvvw | mulsubvvw | addvw | subvw => exact .ofVectorCommand
  | shlvu | shrvu => exact .ofVectorShift
  | nresize => exact .ofNresize
  | nadd | nsub | nmul | nlsh | nrsh => exact .ofCappedCommand
  | modset => exact .ofModset
  | div => exact .ofWithModulus .ofCappedCommand
  | shiftaddin | mod | modadd | modsub | modneg | modmul | montrep | exp =>
    exact .ofWithModulus (.ofFinish rfl)
  | montmul => exact .ofWithOddModulus (.ofFinish rfl)
  | modinv => exact .ofModinv
  | modsqrt => exact .ofModsqrt

theorem completion_completesWith (s : State) :
    CompletesWith s (wordError s) (completion s) := by
  unfold completion wordError
  cases decode s.cmd with
  | command i => exact exec_completesWith i s
  | illegal e => exact .ofAbort (by cases e <;> nofun)

/-! ## The error is public (R404; 00_scope.md R13) -/

/-- MODSET makes the bit length of its operand public, which is 0 for the value 0 only. -/
theorem emptyModulusError_of_leakOf {i : Instr} (hleak : leakOf s i = leakOf t i) :
    emptyModulusError s i = emptyModulusError t i := by
  unfold emptyModulusError
  cases i with simp only
  | modset a =>
    have hlen : bitlen (s.nreg a).val = bitlen (t.nreg a).val := Option.some.inj hleak
    have hzero : (s.nreg a).val = 0 ↔ (t.nreg a).val = 0 := by
      rw [← bitlen_eq_zero_iff, hlen, bitlen_eq_zero_iff]
    simp only [hzero]

namespace State.SamePublic
variable (h : s.SamePublic t)
include h

theorem modulusInvalidError_eq (i : Instr) : modulusInvalidError s i = modulusInvalidError t i := by
  unfold modulusInvalidError
  cases modulusOperand i with
  | none => rfl
  | some mk => exact congrArg (!·) (h.valid mk)

theorem modulusEvenError_eq (i : Instr) : modulusEvenError s i = modulusEvenError t i := by
  unfold modulusEvenError
  simp only [h.even]

theorem shiftError_eq (i : Instr) : shiftError s i = shiftError t i := by
  unfold shiftError
  simp only [h.width]

/-- The lengths that a check reads are announced, or made public by the shift amount, or the bit
length of a modulus that is valid. -/
theorem lengthError_eq {i : Instr} (hleak : leakOf s i = leakOf t i)
    (hv : modulusInvalidError s i = false) : lengthError s i = lengthError t i := by
  unfold lengthError
  cases i with simp only [h.width, h.limbs, h.ann]
  | nlsh _ _ b | nrsh _ _ b =>
    have hamount : s.wreg b = t.wreg b := Option.some.inj hleak
    simp only [hamount]
  | div _ _ mk =>
    have hvalid : (s.mreg mk).valid = true := by simpa [modulusInvalidError, modulusOperand] using hv
    simp only [h.bitlen_val mk hvalid]

theorem commandError_eq {i : Instr} (hleak : leakOf s i = leakOf t i) :
    commandError i s = commandError i t := by
  unfold commandError
  rw [← h.modulusInvalidError_eq]
  split
  · rfl
  · next hv =>
    rw [h.modulusEvenError_eq, h.lengthError_eq hleak (by simpa using hv), h.shiftError_eq,
      emptyModulusError_of_leakOf hleak]

theorem wordError_eq (hv : s.publicView = t.publicView) : wordError s = wordError t := by
  have hcmd : s.cmd = t.cmd := congrArg PublicView.cmd hv
  unfold wordError
  rw [← hcmd]
  cases hd : decode s.cmd with
  | command i => exact h.commandError_eq (leakOf_of_publicView hv hd)
  | illegal e => rfl

end State.SamePublic

/-- Settles O19: the check of each operand form stands in the outcome where the table has it, and each
check reads public data. -/
theorem wordsCompleteWithTheFirstError : Obligations.WordsCompleteWithTheFirstError :=
  ⟨completion_completesWith, fun _ _ hp hs ht hv =>
    (State.samePublic_of_publicView hp hs ht hv).wordError_eq hv⟩

/-! ## The fault log (R403; 93_implementation_defined.md part 3) -/

theorem completed_of_completion (h : completion s = .next t) : s.Completed t := by
  obtain ⟨u, hu, hok, herr⟩ := completion_completesWith s
  obtain rfl : u = t := by simpa [hu] using h
  by_cases he : wordError s = .none
  · exact (hok he).1
  · exact (herr he).1

/-- A completion adds its error to the log, if it has one. -/
theorem faultLog_of_completion (h : completion s = .next t) :
    t.faultLog =
      if wordError s = .none then s.faultLog else s.faultLog ++ [.command (wordError s) s.cmd] := by
  obtain ⟨u, hu, hok, herr⟩ := completion_completesWith s
  obtain rfl : u = t := by simpa [hu] using h
  split
  · next he =>
    obtain ⟨-, -, -, -, hlog⟩ := hok he
    exact hlog
  · next he =>
    obtain ⟨-, -, -, -, -, -, -, -, hlog⟩ := herr he
    exact hlog

theorem faultLog_writeReg (r : BusReg) (v : BusWord) : (s.writeReg r v).faultLog = s.faultLog := by
  cases r with
  | ctrl =>
    simp only [State.writeReg, State.writeCtrl]
    split <;> rfl
  | status =>
    simp only [State.writeReg, State.writeStatus]
    split <;> rfl
  | cmd =>
    simp only [State.writeReg, State.submit]
    split <;> rfl
  | w | nann | nlimb =>
    simp only [State.writeReg, State.writeW, State.writeAnn, State.writeLimb]
    repeat' split
    all_goals rfl
  | id | config | errcmd | cmdcnt | mstat | minv | mlimb | reserved => rfl

theorem faultLog_busWrite (r : BusReg) (v : BusWord) : (busWrite s r v).faultLog = s.faultLog :=
  faultLog_writeReg r v

theorem faultLog_busRead (r : BusReg) : (busRead s r).faultLog = s.faultLog := by
  unfold busRead
  split <;> rfl

/-- An access adds at most its own refusal to the log. -/
theorem faultLog_busAccess {x : Access} (h : busAccess x s = .next t) :
    ∃ l, t.faultLog = s.faultLog ++ l := by
  obtain rfl | ⟨r, rfl⟩ | ⟨-, -, -, rfl⟩ := busAccess_cases h
  · exact ⟨[.bus x], rfl⟩
  · exact ⟨[], by rw [faultLog_busRead, List.append_nil]⟩
  · exact ⟨[], by rw [faultLog_busWrite, List.append_nil]⟩

theorem faultLog_engineStep (h : engineStep s = .next t) : ∃ l, t.faultLog = s.faultLog ++ l := by
  cases hb : s.busy with
  | true =>
    rw [faultLog_of_completion (engineStep_busy hb ▸ h)]
    split
    · exact ⟨[], (List.append_nil _).symm⟩
    · exact ⟨_, rfl⟩
  | false =>
    obtain rfl : s = t := by simpa [engineStep_idle hb] using h
    exact ⟨[], (List.append_nil _).symm⟩

/-- Settles O18: by the cases of a step, a reset keeping the log; the engine's completion adds its
error. -/
theorem faultLogOnlyGrows : Obligations.FaultLogOnlyGrows := by
  refine ⟨fun s t h => ?_, fun s t hm hb h => ?_⟩
  · obtain ⟨-, he⟩ | ⟨-, r, rfl⟩ | ⟨x, -, -, -, ha⟩ := step_cases h
    · exact faultLog_engineStep (s := s.advance) he
    · exact ⟨[], (List.append_nil _).symm⟩
    · exact faultLog_busAccess (s := s.advance) ha
  · rw [step_of_engineMoves hm, engineStep_busy (s := s.advance) hb] at h
    exact faultLog_of_completion (s := s.advance) h

/-! ## The interrupt line (R410) -/

/-- Settles O12: a completion sets DONE and keeps IE, and the whole results of the three writes have
DONE or IE 0. -/
theorem interruptFollowsIeAndDone : Obligations.InterruptFollowsIeAndDone := by
  refine ⟨fun _ => rfl, fun s t h => ?_, fun s t v rest hs hb he h => ?_,
    fun s t v rest hs hv h => ?_, fun s t v rest hs hv h => ?_⟩
  · obtain ⟨-, hdone, -, -, hie, -⟩ := completed_of_completion h
    rw [State.irq, hdone, hie, Bool.and_true]
  · have hacc := (cmdWriteIsAcceptedOrDropped s v rest hs).1 ⟨hb, he⟩
    obtain rfl := Host.Outcome.next.inj (hacc.symm.trans h)
    exact Bool.and_false _
  · obtain rfl := Host.Outcome.next.inj ((statusWriteClearsTheOnes s v rest hs).symm.trans h)
    rw [State.irq, if_pos hv, Bool.and_false]
  · obtain ⟨hset, hreset⟩ := ctrlWriteSetsIeThenResets s v rest hs
    cases hr : v.getLsbD 1 with
    | false =>
      obtain rfl := Host.Outcome.next.inj ((hset hr).symm.trans h)
      rw [State.irq, hv, Bool.false_and]
    | true =>
      obtain ⟨u, hu, -, hie, -⟩ := hreset hr
      obtain rfl := Host.Outcome.next.inj (hu.symm.trans h)
      rw [State.irq, hie, Bool.false_and]

end Sys2Proof.Machine
end

section
/-!
PROOFS. 70_reset_and_hazards.md R470, R472: the timing view of a command is a function of its public view.
-/

namespace Sys2Proof.Machine

variable {s t : State}

/-- The public parts of operands that a duration may depend on are in the public view (R472). -/
theorem operandViews_of_publicView (h : s.publicView = t.publicView) :
    operandViews s = operandViews t := by
  have hnat := State.nreg_public_of_publicView h
  have hmod := State.mreg_public_of_publicView h
  have hlen : s.lengthView = t.lengthView := funext fun i => congrArg (·.1, none) (hnat i)
  have hoperand : s.operandView = t.operandView := funext hnat
  have hmodulus : s.modulusView = t.modulusView :=
    funext fun k => congrArg (fun m : Bool × Nat × Nat × Bool => some m.2) (hmod k)
  funext i
  unfold operandViews
  rw [hlen, hoperand, hmodulus]

theorem State.timingView_of_publicView (h : s.publicView = t.publicView) :
    s.timingView = t.timingView := by
  have hcmd : s.cmd = t.cmd := congrArg PublicView.cmd h
  unfold State.timingView
  rw [← hcmd, operandViews_of_publicView h]
  cases hd : decode s.cmd with
  | command i => simp only [leakOf_of_publicView h hd]
  | illegal e => rfl

/-- Settles O21: one cycle is counted beside the open ones, which read the timing view alone. -/
theorem cyclesDependOnThePublicView : Obligations.CyclesDependOnThePublicView :=
  ⟨fun _ => Nat.succ_pos _, fun _ _ h => congrArg Config.cycles (State.timingView_of_publicView h)⟩

end Sys2Proof.Machine
end

section
/-!
PROOFS. The modular square root (47_modsqrt.md R360 to R364): the next state of MODSQRT, and the
Tonelli-Shanks iteration, which keeps `r^2 = x*t` and the orders of `t` and `c`, in the field of the prime.
-/

namespace Sys2Proof.Machine

/-! ## Powers and squares in the field of a prime -/

theorem natCast_powMod (b e p : Nat) : ((powMod b e p : Nat) : ZMod p) = (b : ZMod p) ^ e := by
  rw [powMod_eq, ZMod.natCast_mod, Nat.cast_pow]

theorem powMod_eq_one_iff {p : Nat} (hp : 1 < p) (b e : Nat) :
    powMod b e p = 1 ↔ (b : ZMod p) ^ e = 1 := by
  have h := ZMod.natCast_eq_natCast_iff' (b ^ e) 1 p
  rw [Nat.mod_eq_of_lt hp, ← powMod_eq, Nat.cast_pow, Nat.cast_one] at h
  exact h.symm

theorem powMod_zero_left {p e : Nat} (he : e ≠ 0) : powMod 0 e p = 0 := by
  rw [powMod_eq, Nat.zero_pow (Nat.pos_of_ne_zero he), Nat.zero_mod]

/-- A residue is a square modulo `p` when it is one in `ZMod p`. -/
theorem exists_sq_mod_iff {p x : Nat} (hx : x < p) :
    (∃ y, y * y % p = x) ↔ IsSquare (x : ZMod p) := by
  have hcast (y : Nat) : y * y % p = x ↔ (x : ZMod p) = y * y := by
    rw [← Nat.cast_mul, ZMod.natCast_eq_natCast_iff', Nat.mod_eq_of_lt hx, eq_comm]
  have : NeZero p := ⟨by omega⟩
  simp only [hcast, IsSquare]
  exact (ZMod.natCast_zmod_surjective.exists (p := fun r => (x : ZMod p) = r * r)).symm

/-! ## The search for a non-residue (R363, R364) -/

/-- The search stops at the first candidate that fails the test, so not after one that does. -/
theorem nonResidueFrom_spec {p n : Nat} (hn : powMod n ((p - 1) / 2) p ≠ 1) :
    ∀ fuel z, z ≤ n → n < z + fuel →
      z ≤ nonResidueFrom p fuel z ∧ nonResidueFrom p fuel z ≤ n ∧
        powMod (nonResidueFrom p fuel z) ((p - 1) / 2) p ≠ 1
  | 0, z, hz, hf => by omega
  | fuel + 1, z, hz, hf => by
    rw [nonResidueFrom]
    split
    · next h1 =>
      have hne : z ≠ n := fun h => hn (h ▸ h1)
      obtain ⟨hge, hle, hfail⟩ := nonResidueFrom_spec hn fuel (z + 1) (by omega) (by omega)
      exact ⟨by omega, hle, hfail⟩
    · next h1 => exact ⟨le_rfl, hz, h1⟩

/-! ## The rounds (R363) -/

/-- What the rounds keep, with `j` rounds to go: `r^2 = x*t`, the order of `t` divides `2^j`, and
that of `c` is `2^(j+1)`. -/
structure RoundInv (p x j r t c : Nat) : Prop where
  root  : (r : ZMod p) ^ 2 = x * t
  t_pow : (t : ZMod p) ^ 2 ^ j = 1
  c_pow : (c : ZMod p) ^ 2 ^ j = -1

/-- A round whose test holds keeps `r` and `t`. -/
theorem RoundInv.keep {p x j r t c : Nat} (h : RoundInv p x (j + 1) r t c)
    (ht : (t : ZMod p) ^ 2 ^ j = 1) : RoundInv p x j r t (c * c % p) := by
  refine ⟨h.root, ht, ?_⟩
  rw [ZMod.natCast_mod, Nat.cast_mul, ← sq, ← pow_mul, ← pow_succ', h.c_pow]

/-- From 0 every round stays at 0. -/
theorem tsRounds_zero (p : Nat) : ∀ j t c, tsRounds p j 0 t c = 0
  | 0, _, _ => rfl
  | j + 1, t, c => by
    rw [tsRounds, Nat.zero_mul, Nat.zero_mod, tsRounds_zero p j, tsRounds_zero p j, ite_self]

/-! ## A prime modulus -/

section
variable {p : Nat} [Fact p.Prime]

theorem natCast_ne_zero_of_lt {x : Nat} (h0 : x ≠ 0) (hx : x < p) : (x : ZMod p) ≠ 0 := by
  rw [Ne, ZMod.natCast_eq_zero_iff]
  exact Nat.not_dvd_of_pos_of_lt (Nat.pos_of_ne_zero h0) hx

/-- The test of MODSQRT decides the squares: Euler's criterion, and 0 (R360). -/
theorem sqrt_test_iff (hodd : p % 2 = 1) {x : Nat} (hx : x < p) :
    (x = 0 ∨ powMod x ((p - 1) / 2) p = 1) ↔ ∃ y, y * y % p = x := by
  have hhalf : (p - 1) / 2 = p / 2 := by omega
  rw [exists_sq_mod_iff hx, powMod_eq_one_iff (Nat.Prime.one_lt Fact.out), hhalf]
  by_cases h0 : x = 0
  · simp [h0]
  · simp [h0, ZMod.euler_criterion p (natCast_ne_zero_of_lt h0 hx)]

/-- The candidate found is a non-residue: its power is -1. -/
theorem nonResidueFrom_pow (hodd : p % 2 = 1) :
    (nonResidueFrom p p 2 : ZMod p) ^ ((p - 1) / 2) = -1 := by
  have hp : 1 < p := Nat.Prime.one_lt Fact.out
  have hhalf : (p - 1) / 2 = p / 2 := by omega
  obtain ⟨a, ha⟩ := FiniteField.exists_nonsquare (F := ZMod p) (by rw [ZMod.ringChar_zmod_n]; omega)
  have ha0 : a ≠ 0 := fun h => ha (h ▸ IsSquare.zero)
  have hfail : powMod a.val ((p - 1) / 2) p ≠ 1 := by
    rw [Ne, powMod_eq_one_iff hp, ZMod.natCast_zmod_val, hhalf, ← ZMod.euler_criterion p ha0]
    exact ha
  have h2 : 2 ≤ a.val := by
    have hne0 : a.val ≠ 0 := mt (ZMod.val_eq_zero a).mp ha0
    have hne1 : a.val ≠ 1 := fun h => hfail (by simp [h, powMod_eq_one_iff hp])
    omega
  have hlt : a.val < p := ZMod.val_lt a
  obtain ⟨hge, hle, hne⟩ := nonResidueFrom_spec hfail p 2 h2 (by omega)
  rw [Ne, powMod_eq_one_iff hp, hhalf] at hne
  rw [hhalf]
  exact (ZMod.pow_div_two_eq_neg_one_or_one p
    (natCast_ne_zero_of_lt (by omega) (by omega))).resolve_left hne

namespace RoundInv
variable {x j r t c : Nat}

/-- A round whose test fails has `t^(2^j) = -1`, and the factor `c^2` takes the sign away. -/
theorem multiply (h : RoundInv p x (j + 1) r t c) (ht : (t : ZMod p) ^ 2 ^ j ≠ 1) :
    RoundInv p x j (r * c % p) (t * c % p * c % p) (c * c % p) := by
  have hneg : (t : ZMod p) ^ 2 ^ j = -1 := by
    refine (sq_eq_one_iff.mp ?_).resolve_left ht
    rw [← pow_mul, ← pow_succ, h.t_pow]
  have hc : ((c : ZMod p) * c) ^ 2 ^ j = -1 := by
    rw [← sq, ← pow_mul, ← pow_succ', h.c_pow]
  refine ⟨?_, ?_, ?_⟩ <;> simp only [ZMod.natCast_mod, Nat.cast_mul]
  · rw [mul_pow, h.root]
    ring
  · rw [mul_assoc, mul_pow, hneg, hc, neg_one_mul, neg_neg]
  · exact hc

theorem tsRounds_sq : ∀ j r t c, RoundInv p x j r t c → (tsRounds p j r t c : ZMod p) ^ 2 = x
  | 0, r, t, c, h => by
    have ht : (t : ZMod p) = 1 := by simpa using h.t_pow
    rw [tsRounds, h.root, ht, mul_one]
  | j + 1, r, t, c, h => by
    rw [tsRounds]
    have htest := powMod_eq_one_iff (Nat.Prime.one_lt (Fact.out : p.Prime)) t (2 ^ j)
    split
    · next ht => exact tsRounds_sq j _ _ _ (h.keep (htest.mp ht))
    · next ht => exact tsRounds_sq j _ _ _ (h.multiply (mt htest.mpr ht))

end RoundInv

/-- The invariant at the start: `p - 1 = Q * 2^S`, and a non-zero square has power 1. -/
theorem roundInv_start {x z Q S : Nat} (hS : 0 < S) (hQ : Q % 2 = 1) (hQS : Q * 2 ^ S = p - 1)
    (hx : (x : ZMod p) ^ ((p - 1) / 2) = 1) (hz : (z : ZMod p) ^ ((p - 1) / 2) = -1) :
    RoundInv p x (S - 1) (powMod x ((Q + 1) / 2) p) (powMod x Q p) (powMod z Q p) := by
  have hhalf : Q * 2 ^ (S - 1) = (p - 1) / 2 := by
    rw [← hQS, ← Nat.sub_add_cancel hS, Nat.pow_succ, ← Nat.mul_assoc, Nat.add_sub_cancel,
      Nat.mul_div_cancel _ Nat.two_pos]
  have hexp : (Q + 1) / 2 * 2 = Q + 1 := by omega
  refine ⟨?_, ?_, ?_⟩ <;> simp only [natCast_powMod, ← pow_mul]
  · rw [hexp, pow_succ']
  · rw [hhalf, hx]
  · rw [hhalf, hz]

/-- `TS(x, p)` is a square root of every `x` that passes the test. -/
theorem tonelliShanks_sq (hodd : p % 2 = 1) {x : Nat} (hx : x < p)
    (htest : x = 0 ∨ powMod x ((p - 1) / 2) p = 1) :
    tonelliShanks x p * tonelliShanks x p % p = x := by
  have hp : 1 < p := Nat.Prime.one_lt Fact.out
  obtain ⟨hQ, -, hQS⟩ := splitTwos_spec p (p - 1) 0 (by omega) (by omega)
  rw [Nat.sub_zero] at hQS
  rw [tonelliShanks]
  obtain rfl | hpow := htest
  · rw [powMod_zero_left (by omega), tsRounds_zero, Nat.zero_mul, Nat.zero_mod]
  · have hS : 0 < (splitTwos p (p - 1) 0).2 := Nat.pos_of_ne_zero fun h0 => by
      rw [h0, Nat.pow_zero, Nat.mul_one] at hQS
      omega
    have hroot := (roundInv_start hS hQ hQS ((powMod_eq_one_iff hp x _).mp hpow)
      (nonResidueFrom_pow hodd)).tsRounds_sq
    rwa [sq, ← Nat.cast_mul, ZMod.natCast_eq_natCast_iff', Nat.mod_eq_of_lt hx] at hroot

end

/-! ## The command (R360, R361) -/

theorem State.Inv.even_eq_false {s : State} (h : s.Inv) {mk : MReg}
    (hv : (s.mreg mk).valid = true) (hodd : (s.mreg mk).val % 2 = 1) :
    (s.mreg mk).even = false := by
  obtain ⟨-, -, -, hmod, -⟩ := h
  obtain ⟨-, -, -, -, heven, -⟩ := (hmod mk).2 hv
  simpa [hodd] using heven

/-- Settles O50: the branches of the command are the cases of R360, the test decides the squares, and
the iteration gives their root. -/
theorem modularSquareRoot : Obligations.ModularSquareRoot := by
  refine ⟨encoded_of_findRow rfl, fun s d a mk hinv => ?_⟩
  intro p x result
  have hexec : exec (.modsqrt d a mk) s = withOddModulus s mk _ := execModsqrt.eq_def ..
  have hrun (hv : (s.mreg mk).valid = true) (hodd : p % 2 = 1) :=
    hexec.trans (withOddModulus_odd s hv (hinv.even_eq_false hv hodd) _)
  have hresult (r : Nat) (hr : r < p) : finish (s.setResidue d mk (s.mreg mk) r) = .next (result r) :=
    finish_setResidue s d mk _ hr
  have hpos (hv : (s.mreg mk).valid = true) : 0 < p := hinv.val_pos hv
  refine ⟨fun hv h1 => ?_, fun hv h3 => ?_, fun hv h1 hprime hsq => ?_, fun hv h1 hne hnot => ?_,
    fun hv heven => ?_, fun hv => ?_⟩
  · rw [hrun hv (by omega)]
    exact (if_pos h1).trans (hresult 0 (hpos hv))
  · rw [hrun hv (by omega), ← powMod_eq]
    exact (if_neg (by omega)).trans ((if_pos h3).trans (hresult _ (powMod_lt _ _ (hpos hv))))
  · have : Fact p.Prime := ⟨hprime⟩
    have hx : x < p := Nat.mod_lt _ (hpos hv)
    have htest := (sqrt_test_iff (by omega) hx).mpr hsq
    have hroot := tonelliShanks_lt x (hpos hv)
    refine ⟨hroot, tonelliShanks_sq (by omega) hx htest, ?_⟩
    rw [hrun hv (by omega)]
    exact (if_neg hprime.one_lt.ne').trans ((if_neg (by omega)).trans
      ((if_pos ⟨(isPrime_iff p).mpr hprime, htest⟩).trans (hresult _ hroot)))
  · refine ⟨s.draw p, State.draw_lt (hpos hv), ?_⟩
    rw [hrun hv (by omega)]
    refine (if_neg hne).trans ((if_neg (by omega)).trans ((if_neg ?_).trans
      (finish_drawResidue s d mk _ (hpos hv))))
    rintro ⟨hp, htest⟩
    have hprime := (isPrime_iff p).mp hp
    have : Fact p.Prime := ⟨hprime⟩
    exact hnot ⟨hprime, (sqrt_test_iff (by omega) (Nat.mod_lt _ (hpos hv))).mp htest⟩
  · exact s.failsWith_of_abort (hexec.trans (withOddModulus_even s hv heven _))
  · exact s.failsWith_of_abort (hexec.trans (withOddModulus_invalid s hv _))

end Sys2Proof.Machine
end
